-- ==== Sys2Proof/Word.lean ====
section
/-! DEFINITION. The word types: bytes, 32-bit words and 40-bit command words (spec/00_scope.md R10, R11). -/

namespace Sys2Proof

/-- A byte: 8 bits, an unsigned value 0 to 255 (R11). -/
abbrev Byte := BitVec 8

/-- A word: 32 bits, unsigned unless a rule says signed (R11). -/
abbrev Word := BitVec 32

/-- A command word: 40 bits, `op` in bits 39:32 and `imm` in bits 31:0 (R10, R100). -/
abbrev CommandWord := BitVec 40

/-- The width of the two counters `TXREM` and `CKCNT`: 11 bits, values 0 to 1024 (R10, R22). -/
abbrev Count := BitVec 11

end Sys2Proof
end

