-- ==== Sys2Proof/Syntax.lean ====
section
/-! DEFINITION. The instructions: one constructor per row of spec/opcode_table.json (18 command words, 5 wire packets),
the five packet magics, and the two kinds of input that reach the block. -/

namespace Sys2Proof

/-- The packet magic words, a closed set of five (spec/30_encoding.md R91). -/
inductive Magic where
  | comd
  | head
  | data
  | pass
  | resp
  deriving DecidableEq, Repr

/-- The operations of R101 and the wire packets of R94 to R98. An operand is the number its class carries (R102): a
byte `imm[7:0]`, a register number `imm[7:0]`, or the word `imm`. -/
inductive Instr where
  /-- `RESET` (R231). -/
  | reset
  /-- `RD r` (R232). -/
  | rd (r : Byte)
  /-- `CRC.INIT` (R133). -/
  | crcInit
  /-- `CRC.BYTE b` (R134). -/
  | crcByte (b : Byte)
  /-- `CRC.CMP w` (R135). -/
  | crcCmp (w : Word)
  /-- `TX.START m` (R152). -/
  | txStart (m : Word)
  /-- `TX.BYTE b` (R153). -/
  | txByte (b : Byte)
  /-- `CK.START` (R172). -/
  | ckStart
  /-- `CK.BYTE b` (R173). -/
  | ckByte (b : Byte)
  /-- `LN.CLEAR` (R190). -/
  | lnClear
  /-- `LN.BYTE b` (R191). -/
  | lnByte (b : Byte)
  /-- `LN.RESP` (R194). -/
  | lnResp
  /-- `LN.STAT` (R196). -/
  | lnStat
  /-- `KEY.LOAD k` (R214). -/
  | keyLoad (k : Word)
  /-- `KEY.CLR` (R215). -/
  | keyClr
  /-- `X.SYNC` (R216). -/
  | xSync
  /-- `X.BYTE b` (R217). -/
  | xByte (b : Byte)
  /-- `X.GRP w` (R218). -/
  | xGrp (w : Word)
  /-- A `COMD` packet on the wire: payload `be32(code)`, trailer `be32(crc)` (R94). -/
  | pktComd (code : Word) (crc : Word)
  /-- A `HEAD` packet on the wire: payload `be32(size)`, trailer `be32(crc)` (R95). -/
  | pktHead (size : Word) (crc : Word)
  /-- A `DATA` packet on the wire: payload one raw block, trailer `be32(crc)` (R96). -/
  | pktData (block : List Byte) (crc : Word)
  /-- A `PASS` packet on the wire: payload 4 raw bytes in stream order, trailer `be32(crc)` (R97). -/
  | pktPass (p0 p1 p2 p3 : Byte) (crc : Word)
  /-- A `RESP` packet on the wire: payload `le32(v)`, trailer `be32(crc)` (R98). -/
  | pktResp (v : Word) (crc : Word)
  deriving DecidableEq, Repr

/-- What reaches the block: a command word at the command port (R100), or the bytes of one received packet that the
host hands to the packet checker (R175, R245; DESIGN CHOICE, log entry 4). The two spaces of spec/opcode_table.json
(`CMD.*` and `PKT`) overlap as bits, so the kind of input tells them apart, never the bits. -/
inductive Input where
  | command (cmd : CommandWord)
  | packet (bytes : List Byte)
  deriving DecidableEq, Repr

end Sys2Proof
end

