-- ==== Sys2Proof/Machine/Operands.lean ====
section
/-! DEFINITION. Every operand form: word and byte-sequence conversions (spec/00_scope.md R12, spec/20_memory.md R63,
R64), the magic words as numbers, their payload lengths and codes (R8, R91), and the bytes of a packet (R90, R150). -/

namespace Sys2Proof

/-- Byte `j` of a word: `w[8j+7:8j]`, byte 0 the least significant (R11). -/
def byteOf (w : Word) (j : Nat) : Byte := (w >>> (8 * j)).setWidth 8

/-- `be32(w)`: the four bytes, most significant first (R12). -/
def be32 (w : Word) : List Byte := [byteOf w 3, byteOf w 2, byteOf w 1, byteOf w 0]

/-- `le32(w)`: the four bytes, least significant first (R12). -/
def le32 (w : Word) : List Byte := [byteOf w 0, byteOf w 1, byteOf w 2, byteOf w 3]

/-- `from_be32` of the four bytes `s0 s1 s2 s3`: `s0` becomes bits 31:24 (R12). -/
def fromBe32 (s0 s1 s2 s3 : Byte) : Word :=
  s0.setWidth 32 <<< 24 ||| s1.setWidth 32 <<< 16 ||| s2.setWidth 32 <<< 8 ||| s3.setWidth 32

/-- `from_le32` of the four bytes `s0 s1 s2 s3`: `s0` becomes bits 7:0 (R12). -/
def fromLe32 (s0 s1 s2 s3 : Byte) : Word :=
  s0.setWidth 32 ||| s1.setWidth 32 <<< 8 ||| s2.setWidth 32 <<< 16 ||| s3.setWidth 32 <<< 24

/-- `((sh << 8) & 0xFFFFFFFF) | zext_32(b)`: one more byte enters a 32-bit shift register at the low end (R173). -/
def shiftIn (sh : Word) (b : Byte) : Word := (sh <<< 8) ||| b.setWidth 32

/-- The magic as a 32-bit number, `from_be32` of its four ASCII bytes (R91). -/
def Magic.number : Magic → Word
  | .comd => 0x434F4D44
  | .head => 0x48454144
  | .data => 0x44415441
  | .pass => 0x50415353
  | .resp => 0x52455350

/-- The packet magic a number stands for, if it is one of the five (R91); `TEST`, `ACKW` and `NACK` are none (R92). -/
def Magic.ofNumber (w : Word) : Option Magic :=
  if w = 0x434F4D44 then some .comd
  else if w = 0x48454144 then some .head
  else if w = 0x44415441 then some .data
  else if w = 0x50415353 then some .pass
  else if w = 0x52455350 then some .resp
  else none

/-- `plen(magic)`, the payload length in bytes (R8). -/
def Magic.plen : Magic → Nat
  | .comd => 4
  | .head => 4
  | .data => 1024
  | .pass => 4
  | .resp => 4

/-- `plen(magic)` as a value of the 11-bit counters (R10, R152, R173). -/
def Magic.plenCount (m : Magic) : Count := BitVec.ofNat 11 m.plen

/-- The bytes of a packet with the given trailer: `magic ‖ payload ‖ be32(crc)`, no padding (R90). -/
def packetBytes (m : Magic) (payload : List Byte) (crc : Word) : List Byte :=
  be32 m.number ++ payload ++ be32 crc

/-- The pattern `RESP`, bytes `52 45 53 50` (R91, R193). -/
def respPattern : List Byte := [0x52, 0x45, 0x53, 0x50]

/-- The token `ACKW`, bytes `41 43 4B 57` (R92, R195). -/
def ackwPattern : List Byte := [0x41, 0x43, 0x4B, 0x57]

/-- The token `NACK`, bytes `4E 41 43 4B` (R92, R195). -/
def nackPattern : List Byte := [0x4E, 0x41, 0x43, 0x4B]

end Sys2Proof
end

