-- ==== Sys2Proof/WellFormed.lean ====
section
/-! DEFINITION. Well-formed instructions. Widths are in the types; the one check left is the length of a `DATA`
packet's block (spec/00_scope.md R8, spec/30_encoding.md R96). -/

namespace Sys2Proof

/-- An instruction as the encoding admits it: the block of a `DATA` packet is exactly 1024 bytes (R8, R96). -/
def Instr.wellFormed : Instr → Bool
  | .pktData block _ => block.length == 1024
  | .reset | .rd _ | .crcInit | .crcByte _ | .crcCmp _ | .txStart _ | .txByte _ | .ckStart | .ckByte _
  | .lnClear | .lnByte _ | .lnResp | .lnStat | .keyLoad _ | .keyClr | .xSync | .xByte _ | .xGrp _
  | .pktComd _ _ | .pktHead _ _ | .pktPass _ _ _ _ _ | .pktResp _ _ => true

end Sys2Proof
end

