-- ==== Sys2Proof/Decode.lean ====
section
/-! DEFINITION. The decoder of command words (spec/30_encoding.md R100 to R104) and of wire packets (R90 to R98), each
total and rejecting by name; the encoder; the mask-and-match rows of spec/opcode_table.json; and the placing of a
table row's word as an input. -/

namespace Sys2Proof

/-- Why an input names no instruction (R103, R170). -/
inductive DecodeError where
  /-- `op` is not one of the 18 values of R101. -/
  | reservedOp
  /-- A class N word with `imm != 0`. -/
  | immediateNotZero
  /-- A class B or R word with `imm[31:8] != 0`. -/
  | highBitsNotZero
  /-- The first four bytes are not one of the five packet magics. -/
  | badMagic
  /-- Fewer bytes than the packet's length. -/
  | packetTooShort
  /-- Bytes beyond the packet's length. -/
  | packetTooLong
  deriving DecidableEq, Repr

/-- `cmd[39:32]`, the opcode of a command word (R100). -/
def opOf (cmd : CommandWord) : Byte := cmd.extractLsb' 32 8

/-- `cmd[31:0]`, the immediate of a command word (R100). -/
def immOf (cmd : CommandWord) : Word := cmd.extractLsb' 0 32

/-- Class N: no operand, `imm` must be zero (R102). -/
def classN (imm : Word) (i : Instr) : Except DecodeError Instr :=
  if imm = 0 then .ok i else .error .immediateNotZero

/-- Classes B and R: the operand is `imm[7:0]` and `imm[31:8]` must be zero (R102). -/
def classB (imm : Word) (mk : Byte → Instr) : Except DecodeError Instr :=
  if imm.extractLsb' 8 24 = 0 then .ok (mk (imm.extractLsb' 0 8)) else .error .highBitsNotZero

/-- Class W: the operand is the whole immediate, every value legal (R102). -/
def classW (imm : Word) (mk : Word → Instr) : Except DecodeError Instr := .ok (mk imm)

/-- The decoding procedure of R104, total on every 40-bit value. -/
def decodeCommand (cmd : CommandWord) : Except DecodeError Instr :=
  match (opOf cmd).toNat with
  | 0x01 => classN (immOf cmd) .reset
  | 0x02 => classB (immOf cmd) .rd
  | 0x10 => classN (immOf cmd) .crcInit
  | 0x11 => classB (immOf cmd) .crcByte
  | 0x12 => classW (immOf cmd) .crcCmp
  | 0x20 => classW (immOf cmd) .txStart
  | 0x21 => classB (immOf cmd) .txByte
  | 0x30 => classN (immOf cmd) .ckStart
  | 0x31 => classB (immOf cmd) .ckByte
  | 0x40 => classN (immOf cmd) .lnClear
  | 0x41 => classB (immOf cmd) .lnByte
  | 0x42 => classN (immOf cmd) .lnResp
  | 0x43 => classN (immOf cmd) .lnStat
  | 0x50 => classW (immOf cmd) .keyLoad
  | 0x51 => classN (immOf cmd) .keyClr
  | 0x52 => classN (immOf cmd) .xSync
  | 0x53 => classB (immOf cmd) .xByte
  | 0x54 => classW (immOf cmd) .xGrp
  | _ => .error .reservedOp

/-- A packet with a 4-byte payload: exactly eight bytes follow the magic, the payload and the trailer (R90). -/
def decodeShort (rest : List Byte) (mk : Byte → Byte → Byte → Byte → Word → Instr) : Except DecodeError Instr :=
  match rest with
  | [p0, p1, p2, p3, c0, c1, c2, c3] => .ok (mk p0 p1 p2 p3 (fromBe32 c0 c1 c2 c3))
  | _ => .error (if rest.length < 8 then .packetTooShort else .packetTooLong)

/-- A `DATA` packet: 1024 payload bytes and the four trailer bytes follow the magic (R96). -/
def decodeBlock (rest : List Byte) : Except DecodeError Instr :=
  match rest.drop 1024 with
  | [c0, c1, c2, c3] => .ok (.pktData (rest.take 1024) (fromBe32 c0 c1 c2 c3))
  | _ => .error (if rest.length < 1028 then .packetTooShort else .packetTooLong)

/-- The bytes of one whole packet, no byte missing and none in surplus (R90, R94 to R98). The trailer is read, not
checked: whether it is right is the checker's verdict. -/
def decodePacket (bytes : List Byte) : Except DecodeError Instr :=
  match bytes with
  | m0 :: m1 :: m2 :: m3 :: rest =>
    match Magic.ofNumber (fromBe32 m0 m1 m2 m3) with
    | some .comd => decodeShort rest fun p0 p1 p2 p3 crc => .pktComd (fromBe32 p0 p1 p2 p3) crc
    | some .head => decodeShort rest fun p0 p1 p2 p3 crc => .pktHead (fromBe32 p0 p1 p2 p3) crc
    | some .data => decodeBlock rest
    | some .pass => decodeShort rest fun p0 p1 p2 p3 crc => .pktPass p0 p1 p2 p3 crc
    | some .resp => decodeShort rest fun p0 p1 p2 p3 crc => .pktResp (fromLe32 p0 p1 p2 p3) crc
    | none => .error .badMagic
  | _ => .error .packetTooShort

/-- The instruction an input stands for, or why it stands for none. -/
def decode : Input → Except DecodeError Instr
  | .command cmd => decodeCommand cmd
  | .packet bytes => decodePacket bytes

/-- The command word of an opcode and an immediate: `op[39:32]`, `imm[31:0]` (R100). -/
def commandWord (op : Byte) (imm : Word) : CommandWord := op.setWidth 40 <<< 32 ||| imm.setWidth 40

/-- The immediate of a byte or register operand: `imm[7:0]`, the rest zero (R102). -/
def byteImm (b : Byte) : Word := b.setWidth 32

/-- The encoder, from the opcode map of R101 and the packet layouts of R94 to R98. -/
def encode : Instr → Input
  | .reset => .command (commandWord 0x01 0)
  | .rd r => .command (commandWord 0x02 (byteImm r))
  | .crcInit => .command (commandWord 0x10 0)
  | .crcByte b => .command (commandWord 0x11 (byteImm b))
  | .crcCmp w => .command (commandWord 0x12 w)
  | .txStart m => .command (commandWord 0x20 m)
  | .txByte b => .command (commandWord 0x21 (byteImm b))
  | .ckStart => .command (commandWord 0x30 0)
  | .ckByte b => .command (commandWord 0x31 (byteImm b))
  | .lnClear => .command (commandWord 0x40 0)
  | .lnByte b => .command (commandWord 0x41 (byteImm b))
  | .lnResp => .command (commandWord 0x42 0)
  | .lnStat => .command (commandWord 0x43 0)
  | .keyLoad k => .command (commandWord 0x50 k)
  | .keyClr => .command (commandWord 0x51 0)
  | .xSync => .command (commandWord 0x52 0)
  | .xByte b => .command (commandWord 0x53 (byteImm b))
  | .xGrp w => .command (commandWord 0x54 w)
  | .pktComd code crc => .packet (packetBytes .comd (be32 code) crc)
  | .pktHead size crc => .packet (packetBytes .head (be32 size) crc)
  | .pktData block crc => .packet (packetBytes .data block crc)
  | .pktPass p0 p1 p2 p3 crc => .packet (packetBytes .pass [p0, p1, p2, p3] crc)
  | .pktResp v crc => .packet (packetBytes .resp (le32 v) crc)

/-- One `CMD` row of spec/opcode_table.json: the bits a word must have (R104). -/
structure OpcodeRow where
  mnemonic : String
  mask : CommandWord
  bits : CommandWord
  deriving DecidableEq, Repr

/-- The 18 command rows, mask and match as R104 and spec/opcode_table.json give them. -/
def opcodeRows : List OpcodeRow :=
  [⟨"RESET", 0xFFFFFFFFFF, 0x0100000000⟩, ⟨"RD", 0xFFFFFFFF00, 0x0200000000⟩,
   ⟨"CRC.INIT", 0xFFFFFFFFFF, 0x1000000000⟩, ⟨"CRC.BYTE", 0xFFFFFFFF00, 0x1100000000⟩,
   ⟨"CRC.CMP", 0xFF00000000, 0x1200000000⟩, ⟨"TX.START", 0xFF00000000, 0x2000000000⟩,
   ⟨"TX.BYTE", 0xFFFFFFFF00, 0x2100000000⟩, ⟨"CK.START", 0xFFFFFFFFFF, 0x3000000000⟩,
   ⟨"CK.BYTE", 0xFFFFFFFF00, 0x3100000000⟩, ⟨"LN.CLEAR", 0xFFFFFFFFFF, 0x4000000000⟩,
   ⟨"LN.BYTE", 0xFFFFFFFF00, 0x4100000000⟩, ⟨"LN.RESP", 0xFFFFFFFFFF, 0x4200000000⟩,
   ⟨"LN.STAT", 0xFFFFFFFFFF, 0x4300000000⟩, ⟨"KEY.LOAD", 0xFF00000000, 0x5000000000⟩,
   ⟨"KEY.CLR", 0xFFFFFFFFFF, 0x5100000000⟩, ⟨"X.SYNC", 0xFFFFFFFFFF, 0x5200000000⟩,
   ⟨"X.BYTE", 0xFFFFFFFF00, 0x5300000000⟩, ⟨"X.GRP", 0xFF00000000, 0x5400000000⟩]

/-- A command word matches a row: `cmd & mask = match` (R104). -/
def OpcodeRow.hits (row : OpcodeRow) (cmd : CommandWord) : Bool := cmd &&& row.mask == row.bits

/-- The bytes of 32-bit words, each most significant byte first, the first `n` words of a number whose bits 31:0 are
the first word. -/
def packetWords : Nat → Nat → List Byte
  | 0, _ => []
  | n + 1, w => be32 (BitVec.ofNat 32 w) ++ packetWords n (w / 2 ^ 32)

/-- How many 32-bit words a packet has whose magic is the given number: 3, or 258 for `DATA`; 1 if it is no magic. -/
def packetWordCount (m : Word) : Nat :=
  match Magic.ofNumber m with
  | some k => 2 + k.plen / 4
  | none => 1

/-- The input whose bits, numbered as spec/opcode_table.json numbers them, are `w`: 40 bits are a command word; any
other width is a wire packet of 32-bit words, the magic (bits 31:0, first byte most significant) first, every bit
above `nbits` zero (DESIGN CHOICE, log entry 9; safe). -/
def inputOfTable (nbits w : Nat) : Input :=
  if nbits = 40 then .command (BitVec.ofNat 40 w)
  else .packet (packetWords (packetWordCount (BitVec.ofNat 32 w)) (w % 2 ^ nbits))

/-- The instruction the decoder reads from a table row's bits; none where it refuses. -/
def decodeTableWord (nbits w : Nat) : Option Instr :=
  (decode (inputOfTable nbits w)).toOption

end Sys2Proof
end

