-- ==== Sys2Proof/Config.lean ====
section
/-! DEFINITION. What an implementation fixes: the open parameters of spec/00_scope.md R9, and the one free value of
the model (the length register of a line too long for 32 bits). -/

namespace Sys2Proof

/-- The open parameter `STATUS_PRIORITY`: the verdict of a line that holds both tokens (R9, R195). -/
inductive StatusPriority where
  | ack
  | nack
  deriving DecidableEq, Repr

/-- The open parameters a model of the block takes as arguments (R9). They stand in the state as plain data that no
step writes, so that every statement over all states is a statement for every value of them
(DESIGN CHOICE, log entry 3; safe). -/
structure Params where
  /-- `LINE_MAX`: capacity of the line buffer in bytes, a natural number with `LINE_MAX >= 12`. -/
  lineMax : Nat
  /-- `STATUS_PRIORITY`: which verdict `LN.STAT` gives when one line holds both tokens. -/
  statusPriority : StatusPriority
  deriving DecidableEq, Repr

/-- The values R9 permits: `LINE_MAX >= 12`. Both priorities are permitted. -/
abbrev Params.Legal (p : Params) : Prop := 12 ≤ p.lineMax

/-- FREE VALUE (DESIGN CHOICE, log entry 7; safe). What the 32-bit length `LNLEN` of a line of 2^32 bytes or more
reads as: the spec states `zext_32(len(LN))` and gives no 32-bit value for such a length, which only a `LINE_MAX`
above 2^32 - 1 admits. -/
opaque Config.lengthBeyondWord : Nat → Word

/-- FREE VALUE (log entry 10; safe). `TIME_UNIT`, in whatever finer unit a reader measures: the duration BT calls
"time unit" (R9). No rule of the block uses it; the host description only. -/
opaque Config.timeUnit : Nat

end Sys2Proof
end

