-- ==== Sys2Proof/Machine/State.lean ====
section
/-! DEFINITION. The state of the block (spec/10_state.md R20 to R34) as plain data, its reset value (R33), and the
reasons a step can stop. -/

namespace Sys2Proof.Machine

/-- `TXST` (1 bit): `0 = IDLE`, `1 = PAYLOAD` (R22). -/
inductive TxState where
  | idle
  | payload
  deriving DecidableEq, Repr

/-- `CKST` (2 bits): `0 = IDLE`, `1 = MAGIC`, `2 = PAYLOAD`, `3 = TRAILER` (R22). -/
inductive CkState where
  | idle
  | magic
  | payload
  | trailer
  deriving DecidableEq, Repr

/-- The packet checker's verdicts: codes 1, 2, 3 of `CKRES`; `NONE` is an absent verdict (R25). -/
inductive CkVerdict where
  | ok
  | badMagic
  | badCrc
  deriving DecidableEq, Repr

/-- The classes of a response: codes 1 to 4 of `RCLASS`; `NONE` is an absent class (R25). -/
inductive RespClass where
  | success
  | failure
  | opaqueValue
  | notFound
  deriving DecidableEq, Repr

/-- The classes of a status line: codes 1 to 3 of `SCLASS`; `NONE` is an absent class (R25). -/
inductive StatusClass where
  | ack
  | nack
  | unmatched
  deriving DecidableEq, Repr

/-- The six fault codes of R27 and R283; `NONE` is an absent code. These are the SPEC's faults: raising one is a next
state (R282), never a stop of the model. -/
inductive FaultCode where
  /-- 1: the decoder, for an illegal command word. -/
  | errOp
  /-- 2: `TX.START` in an open packet, `TX.BYTE` with none open, `CK.BYTE` with no check in progress. -/
  | errSeq
  /-- 3: `TX.START` with a number that is no packet magic. -/
  | errMagic
  /-- 4: `X.BYTE`, `X.GRP` with no key loaded. -/
  | errKey
  /-- 5: `LN.BYTE` with the line buffer full. -/
  | errOvf
  /-- 6: `RD` of a register number 10 to 255. -/
  | errReg
  deriving DecidableEq, Repr

/-- The response to a command word: the fault bit `f` and the return value `ret` (R14, R100). -/
structure Response where
  f : Bool
  ret : Word
  deriving DecidableEq, Repr

/-- The state of the block. The first 21 fields below `params` are the tuple of R20, under its names; `params`, `resp`
and `inbox` are the model's own (log entries 1, 2, 3). -/
structure State where
  /-- The open parameters of R9; no step writes them (log entry 3). -/
  params : Params
  /-- `CRC`, the user CRC accumulator (R21). -/
  crc : Word
  /-- `CRCOK`, the result of the last `CRC.CMP` (R24). -/
  crcok : Bool
  /-- `TXCRC`, the transmit framer's accumulator (R21). -/
  txcrc : Word
  /-- `TXST` (R22). -/
  txst : TxState
  /-- `TXREM`, payload bytes still owed to the open packet (R22). -/
  txrem : Count
  /-- `CKCRC`, the packet checker's accumulator (R21). -/
  ckcrc : Word
  /-- `CKST` (R22). -/
  ckst : CkState
  /-- `CKCNT`, bytes still expected in the checker's phase (R22). -/
  ckcnt : Count
  /-- `CKSH`, the checker's shift register (R21). -/
  cksh : Word
  /-- `CKRES`, the checker's verdict (R25). -/
  ckres : Option CkVerdict
  /-- `CKKIND`, the magic the checker recognised (R25). -/
  ckkind : Option Magic
  /-- `LN`, the line buffer; `LNLEN` is its length (R20, R60). -/
  ln : List Byte
  /-- `RCLASS`, the outcome of the last `LN.RESP` (R25). -/
  rclass : Option RespClass
  /-- `RVAL`, the last response value (R21). -/
  rval : Word
  /-- `SCLASS`, the outcome of the last `LN.STAT` (R25). -/
  sclass : Option StatusClass
  /-- `KEY`, the cipher key; no operation returns it (R21, R32). -/
  key : Word
  /-- `KEYV`, a key is loaded (R24). -/
  keyv : Bool
  /-- `KIDX`, the cipher's stream position modulo 4 (R26). -/
  kidx : BitVec 2
  /-- `ERR`, the code of the first fault since reset (R27). -/
  err : Option FaultCode
  /-- `FAULTED` (R24). -/
  faulted : Bool
  /-- `TX`, the bytes emitted since power-on, oldest first: the append-only trace reading of R34 (log entry 5). -/
  tx : List Byte
  /-- The last response given; none when no command word has been answered (log entry 2). -/
  resp : Option Response
  /-- What the host will present, oldest first (log entry 1). -/
  inbox : List Input
  deriving DecidableEq, Repr

/-- The reasons the MODEL stops. -/
inductive Fault where
  /-- Raised by `TX.BYTE` when `TXST = PAYLOAD` and `TXREM = 0`, and by `CK.BYTE` when `CKST` is not `IDLE` and
  `CKCNT = 0`: a decrement the spec says is never applied at zero (R15, R22), in a state R23 says never holds. Safe: no
  state that meets R23 reaches it, and the model gives such a state no invented value (DESIGN CHOICE, log entry 6). -/
  | counterUnderflow
  deriving DecidableEq, Repr

/-- The reasons the model gives an instruction no meaning. -/
inductive Refusal where
  /-- Raised by `exec` for an instruction whose meaning is not written yet, named as the opcode table names it. Safe: a
  refusal proves nothing about the hardware. No instruction of this model answers so. -/
  | notModelled (mnemonic : String)
  deriving DecidableEq, Repr

/-- The state after power-on: every component at the value of R33; of the model's own fields, no response given, nothing
presented, `STATUS_PRIORITY` at the default of R9 and `LINE_MAX` at the value spec/95_test_vectors.md starts from
(DESIGN CHOICE, log entries 1, 2, 3; the last unsafe for a claim about a run from here). -/
def State.reset : State where
  params := { lineMax := 64, statusPriority := .ack }
  crc := 0xFFFFFFFF
  crcok := false
  txcrc := 0xFFFFFFFF
  txst := .idle
  txrem := 0
  ckcrc := 0xFFFFFFFF
  ckst := .idle
  ckcnt := 0
  cksh := 0
  ckres := none
  ckkind := none
  ln := []
  rclass := none
  rval := 0
  sclass := none
  key := 0
  keyv := false
  kidx := 0
  err := none
  faulted := false
  tx := []
  resp := none
  inbox := []

/-- What a step or a meaning answers. -/
abbrev Result := Host.Outcome State Fault Refusal

end Sys2Proof.Machine
end

