-- ==== Sys2Proof/Machine/Flags.lean ====
section
/-! DEFINITION. The numeric codes of states, verdicts and faults (spec/10_state.md R22, R25, R27), the assembled `STATUS`
word (R29) and the registers by number (R28). The block has no arithmetic condition codes (R24). -/

namespace Sys2Proof.Machine

/-- A one-bit flag as a word. -/
def bitWord (b : Bool) : Word := if b then 1 else 0

/-- The code of `TXST` (R22). -/
def TxState.code : TxState → Word
  | .idle => 0
  | .payload => 1

/-- The code of `CKST` (R22). -/
def CkState.code : CkState → Word
  | .idle => 0
  | .magic => 1
  | .payload => 2
  | .trailer => 3

/-- The code of `CKRES` (R25). -/
def ckresCode : Option CkVerdict → Word
  | none => 0
  | some .ok => 1
  | some .badMagic => 2
  | some .badCrc => 3

/-- The code of `CKKIND` (R25, R91). -/
def ckkindCode : Option Magic → Word
  | none => 0
  | some .comd => 1
  | some .head => 2
  | some .data => 3
  | some .pass => 4
  | some .resp => 5

/-- The code of `RCLASS` (R25). -/
def rclassCode : Option RespClass → Word
  | none => 0
  | some .success => 1
  | some .failure => 2
  | some .opaqueValue => 3
  | some .notFound => 4

/-- The code of `SCLASS` (R25). -/
def sclassCode : Option StatusClass → Word
  | none => 0
  | some .ack => 1
  | some .nack => 2
  | some .unmatched => 3

/-- The code of `ERR` (R27). -/
def errCode : Option FaultCode → Word
  | none => 0
  | some .errOp => 1
  | some .errSeq => 2
  | some .errMagic => 3
  | some .errKey => 4
  | some .errOvf => 5
  | some .errReg => 6

/-- `zext_32(len(LN))`, the register `LNLEN` (R28, R191). A length of 2^32 or more has no stated 32-bit value and reads
as the free value (log entry 7). -/
def lengthWord (n : Nat) : Word :=
  if n < 2 ^ 32 then BitVec.ofNat 32 n else Config.lengthBeyondWord n

/-- `STATUS`, assembled from the fields at the moment of reading (R29). -/
def statusWord (s : State) : Word :=
  bitWord s.faulted ||| bitWord s.crcok <<< 1 ||| bitWord s.keyv <<< 2 ||| s.kidx.setWidth 32 <<< 3
    ||| s.txst.code <<< 5 ||| s.ckst.code <<< 6 ||| ckresCode s.ckres <<< 8 ||| ckkindCode s.ckkind <<< 10
    ||| rclassCode s.rclass <<< 13 ||| sclassCode s.sclass <<< 16

/-- The value of register number `r`, zero-extended to 32 bits; none for the reserved numbers 10 to 255 (R28). -/
def registerValue (s : State) (r : Byte) : Option Word :=
  match r.toNat with
  | 0 => some (statusWord s)
  | 1 => some (errCode s.err)
  | 2 => some s.crc
  | 3 => some s.txcrc
  | 4 => some (s.txrem.setWidth 32)
  | 5 => some s.ckcrc
  | 6 => some (s.ckcnt.setWidth 32)
  | 7 => some s.cksh
  | 8 => some s.rval
  | 9 => some (lengthWord s.ln.length)
  | _ => none

end Sys2Proof.Machine
end

