-- ==== Sys2Proof/Machine/Ops.lean ====
section
/-! DEFINITION. The operations the meanings share: the CRC function (spec/41_crc.md R130, R131), emitting bytes (R61),
completing with a return value (R14), taking a fault and the lock (spec/60_exceptions.md R282, R284). -/

namespace Sys2Proof.Machine

/-- One turn of the loop of R130: shift left, and add the polynomial's low 32 bits when bit 31 was set. -/
def crcShift (c : Word) : Word :=
  if c.getLsbD 31 then (c <<< 1) ^^^ 0x04C11DB7 else c <<< 1

/-- `n` turns of the loop. -/
def crcShifts : Nat → Word → Word
  | 0, c => c
  | n + 1, c => crcShifts n (crcShift c)

/-- `crc_step(c, b)`: the byte meets bits 31:24, then eight turns (R130). -/
def crcStep (c : Word) (b : Byte) : Word := crcShifts 8 (c ^^^ (b.setWidth 32 <<< 24))

/-- `crc_bytes(c, s)`: `crc_step` over a byte sequence, first byte first (R131). -/
def crcBytes (c : Word) : List Byte → Word
  | [] => c
  | b :: s => crcBytes (crcStep c b) s

/-- `crc32_mpeg2(s)`: from the initial value, no final XOR (R7, R131). -/
def crc32Mpeg2 (s : List Byte) : Word := crcBytes 0xFFFFFFFF s

/-- `encode(magic, payload)` with the magic as a number: `magic ‖ payload ‖ be32(crc32_mpeg2(magic ‖ payload))` (R150). -/
def encodePacket (m : Word) (payload : List Byte) : List Byte :=
  be32 m ++ payload ++ be32 (crc32Mpeg2 (be32 m ++ payload))

/-- `emit(bytes)`: the bytes leave after all earlier ones; never fails (R61). -/
def emit (bytes : List Byte) (s : State) : State := { s with tx := s.tx ++ bytes }

/-- The response of a completed operation: `f = 0` and the return value (R14). -/
def respond (ret : Word) (s : State) : State := { s with resp := some { f := false, ret := ret } }

/-- An operation completes: its state, with its response (R14). -/
def complete (ret : Word) (s : State) : Result := .next (respond ret s)

/-- A command word is refused by the lock: no component changes, the response is `f = 1`, `ret = ERR` (R284). -/
def refuse (s : State) : State := { s with resp := some { f := true, ret := errCode s.err } }

/-- TAKING A FAULT with code `e` (R282): `ERR` and `FAULTED` are written and the response is `f = 1`, `ret = e`; nothing
else changes, nothing is saved and control goes nowhere. While `FAULTED = 1` the fault is not taken: the word is refused
by the lock and `ERR` keeps the first code (R284, R287). There is no return but `RESET` (R287). -/
def takeFault (e : FaultCode) (s : State) : State :=
  if s.faulted then refuse s
  else { s with err := some e, faulted := true, resp := some { f := true, ret := errCode (some e) } }

/-- `raise Fault(e)`: the operation ends with the effects of R282 and no other (R13, R281). -/
def raise (e : FaultCode) (s : State) : Result := .next (takeFault e s)

/-- THE LOCK (R284): while `FAULTED = 1` the operation is refused with no effect. Every operation but `RESET` and `RD`
stands under it. -/
def unlessLocked (s : State) (body : Result) : Result :=
  if s.faulted then .next (refuse s) else body

end Sys2Proof.Machine
end

