-- ==== Sys2Proof/Machine/Cipher.lean ====
section
/-! DEFINITION. The cipher: `xor_transform`, `xor_group` (spec/45_cipher.md R210, R211), and `KEY.LOAD`, `KEY.CLR`,
`X.SYNC`, `X.BYTE`, `X.GRP` (R214 to R218). -/

namespace Sys2Proof.Machine

/-- `(key >> (8 * (i mod 4))) & 0xFF`, the key byte that meets stream byte `i` (R210). -/
def keyByte (key : Word) (i : Nat) : Byte := byteOf key (i % 4)

/-- The stream transform of `data` whose first byte stands at stream index `i` (R210). -/
def xorFrom (key : Word) : Nat → List Byte → List Byte
  | _, [] => []
  | i, b :: rest => (b ^^^ keyByte key i) :: xorFrom key (i + 1) rest

/-- `xor_transform(data, key)`, stream mode: the index counts from the start of the buffer (R210). -/
def xorTransform (data : List Byte) (key : Word) : List Byte := xorFrom key 0 data

/-- `xor_group(data, key)`, group mode: within each 4-byte group byte `j` meets key byte `j`; not defined on a buffer
whose length is no multiple of 4 (R211). -/
def xorGroup : List Byte → Word → Option (List Byte)
  | [], _ => some []
  | g0 :: g1 :: g2 :: g3 :: rest, key =>
    (xorGroup rest key).map fun out =>
      (g0 ^^^ keyByte key 0) :: (g1 ^^^ keyByte key 1) :: (g2 ^^^ keyByte key 2) :: (g3 ^^^ keyByte key 3) :: out
  | _, _ => none

/-- `KEY.LOAD k` (R214): every key is valid, zero included; the stream restarts. -/
def execKeyLoad (k : Word) (s : State) : Result :=
  unlessLocked s (complete 0 { s with key := k, keyv := true, kidx := 0 })

/-- `KEY.CLR` (R215). -/
def execKeyClr (s : State) : Result :=
  unlessLocked s (complete 0 { s with key := 0, keyv := false, kidx := 0 })

/-- `X.SYNC` (R216): the start of a new buffer. -/
def execXSync (s : State) : Result :=
  unlessLocked s (complete 0 { s with kidx := 0 })

/-- `X.BYTE b` (R217): `ERR_KEY` with no key loaded; `KIDX` wraps from 3 to 0. -/
def execXByte (b : Byte) (s : State) : Result :=
  unlessLocked s <|
    if s.keyv then complete ((b ^^^ keyByte s.key s.kidx.toNat).setWidth 32) { s with kidx := s.kidx + 1 }
    else raise .errKey s

/-- `X.GRP w` (R218): `ERR_KEY` with no key loaded; `KIDX` is neither read nor written. -/
def execXGrp (w : Word) (s : State) : Result :=
  unlessLocked s <|
    if s.keyv then complete (w ^^^ s.key) s else raise .errKey s

end Sys2Proof.Machine
end

