-- ==== Sys2Proof/Machine/Crc.lean ====
section
/-! DEFINITION. The CRC unit: `CRC.INIT`, `CRC.BYTE`, `CRC.CMP` (spec/41_crc.md R133, R134, R135). -/

namespace Sys2Proof.Machine

/-- `CRC.INIT` (R133). -/
def execCrcInit (s : State) : Result :=
  unlessLocked s (complete 0 { s with crc := 0xFFFFFFFF })

/-- `CRC.BYTE b` (R134). -/
def execCrcByte (b : Byte) (s : State) : Result :=
  unlessLocked s (complete 0 { s with crc := crcStep s.crc b })

/-- `CRC.CMP w` (R135): `CRC` is not changed. -/
def execCrcCmp (w : Word) (s : State) : Result :=
  unlessLocked s (complete (bitWord (s.crc == w)) { s with crcok := s.crc == w })

end Sys2Proof.Machine
end

