-- ==== Sys2Proof/Machine/Framer.lean ====
section
/-! DEFINITION. The transmit framer: `TX.START`, `TX.BYTE` (spec/42_tx_framer.md R152, R153). -/

namespace Sys2Proof.Machine

/-- `TX.START m` (R152): `ERR_SEQ` in an open packet, before `ERR_MAGIC` (R285); else the four magic bytes go out and the
framer owes `plen(m)` payload bytes. -/
def execTxStart (m : Word) (s : State) : Result :=
  unlessLocked s <|
    match s.txst, Magic.ofNumber m with
    | .payload, _ => raise .errSeq s
    | .idle, none => raise .errMagic s
    | .idle, some k =>
      complete (k.plenCount.setWidth 32)
        (emit (be32 m) { s with txcrc := crc32Mpeg2 (be32 m), txrem := k.plenCount, txst := .payload })

/-- `TX.BYTE b` (R153): `ERR_SEQ` with no packet open; the last payload byte is followed by the trailer. A decrement at
zero never happens (R15, R23): the model stops there by name (log entry 6). -/
def execTxByte (b : Byte) (s : State) : Result :=
  unlessLocked s <|
    match s.txst with
    | .idle => raise .errSeq s
    | .payload =>
      if s.txrem = 0 then .fault .counterUnderflow
      else if s.txrem - 1 = 0 then
        complete 0
          (emit (b :: be32 (crcStep s.txcrc b)) { s with txcrc := crcStep s.txcrc b, txrem := 0, txst := .idle })
      else
        complete ((s.txrem - 1).setWidth 32)
          (emit [b] { s with txcrc := crcStep s.txcrc b, txrem := s.txrem - 1 })

end Sys2Proof.Machine
end

