-- ==== Sys2Proof/Machine/Line.lean ====
section
/-! DEFINITION. The line recogniser: `find`, `decode_response`, `classify_status_line` (spec/44_rx_line.md R192, R193,
R195), and `LN.CLEAR`, `LN.BYTE`, `LN.RESP`, `LN.STAT` (R190, R191, R194, R196). -/

namespace Sys2Proof.Machine

/-- `find(L, pat)`: the smallest offset at which `pat` stands in `L` (R192). -/
def find (pat : List Byte) : List Byte → Option Nat
  | [] => if pat = [] then some 0 else none
  | b :: rest => if pat.isPrefixOf (b :: rest) then some 0 else (find pat rest).map (· + 1)

/-- The outcomes of `decode_response` (R193). -/
inductive ResponseOutcome where
  | success (v : Word)
  | failure (v : Word)
  | opaqueValue (v : Word)
  | notFound
  deriving DecidableEq, Repr

/-- The class of a response value (R193): `0xFFFFFFFF` success, `0x33333333` failure, any other opaque (R7). -/
def classifyValue (v : Word) : ResponseOutcome :=
  if v = 0xFFFFFFFF then .success v else if v = 0x33333333 then .failure v else .opaqueValue v

/-- `decode_response(L)` (R193): the four bytes after the first `RESP`, little-endian; `NotFound` with no `RESP` or fewer
than four bytes after it. What follows the value is not read. -/
def decodeResponse (line : List Byte) : ResponseOutcome :=
  match find respPattern line with
  | none => .notFound
  | some i =>
    match line.drop (i + 4) with
    | v0 :: v1 :: v2 :: v3 :: _ => classifyValue (fromLe32 v0 v1 v2 v3)
    | _ => .notFound

/-- `classify_status_line(L)` (R195), for a value of the open parameter `STATUS_PRIORITY`. -/
def classifyStatusLine (priority : StatusPriority) (line : List Byte) : StatusClass :=
  match (find ackwPattern line).isSome, (find nackPattern line).isSome with
  | true, false => .ack
  | false, true => .nack
  | true, true =>
    match priority with
    | .ack => .ack
    | .nack => .nack
  | false, false => .unmatched

/-- `LN.CLEAR` (R190). -/
def execLnClear (s : State) : Result :=
  unlessLocked s (complete 0 { s with ln := [], rclass := none, rval := 0, sclass := none })

/-- `LN.BYTE b` (R191): `ERR_OVF` when the buffer is full; else the byte is stored as it is, whatever its value. -/
def execLnByte (b : Byte) (s : State) : Result :=
  unlessLocked s <|
    if s.ln.length = s.params.lineMax then raise .errOvf s
    else complete (lengthWord (s.ln.length + 1)) { s with ln := s.ln ++ [b] }

/-- What `LN.RESP` writes to `RCLASS` for an outcome (R194). -/
def ResponseOutcome.cls : ResponseOutcome → RespClass
  | .success _ => .success
  | .failure _ => .failure
  | .opaqueValue _ => .opaqueValue
  | .notFound => .notFound

/-- What `LN.RESP` writes to `RVAL` for an outcome: the value, or zero when there is none (R194). -/
def ResponseOutcome.value : ResponseOutcome → Word
  | .success v => v
  | .failure v => v
  | .opaqueValue v => v
  | .notFound => 0

/-- `LN.RESP` (R194). -/
def execLnResp (s : State) : Result :=
  unlessLocked s <|
    complete (rclassCode (some (decodeResponse s.ln).cls))
      { s with rclass := some (decodeResponse s.ln).cls, rval := (decodeResponse s.ln).value }

/-- `LN.STAT` (R196). -/
def execLnStat (s : State) : Result :=
  unlessLocked s <|
    complete (sclassCode (some (classifyStatusLine s.params.statusPriority s.ln)))
      { s with sclass := some (classifyStatusLine s.params.statusPriority s.ln) }

end Sys2Proof.Machine
end

