-- ==== Sys2Proof/Machine/Checker.lean ====
section
/-! DEFINITION. The packet checker: the function `verify` (spec/43_rx_checker.md R170), `CK.START`, `CK.BYTE` (R172,
R173), and the feeding of a byte sequence, `CK.FEED` (spec/47_host_sequences.md R245). -/

namespace Sys2Proof.Machine

/-- The results of `verify` (R170). -/
inductive VerifyResult where
  | incomplete
  | badMagic
  | ok (kind : Magic) (payload : List Byte)
  | badCrc (kind : Magic)
  deriving DecidableEq, Repr

/-- `verify(s)` (R170). Bytes beyond offset `plen + 8` are not examined. -/
def verify : List Byte → VerifyResult
  | b0 :: b1 :: b2 :: b3 :: rest =>
    match Magic.ofNumber (fromBe32 b0 b1 b2 b3) with
    | none => .badMagic
    | some k =>
      match rest.drop k.plen with
      | c0 :: c1 :: c2 :: c3 :: _ =>
        if fromBe32 c0 c1 c2 c3 = crc32Mpeg2 (b0 :: b1 :: b2 :: b3 :: rest.take k.plen)
        then .ok k (rest.take k.plen) else .badCrc k
      | _ => .incomplete
  | _ => .incomplete

/-- The checker restarted: four magic bytes expected, no verdict (R172). -/
def ckStartState (s : State) : State :=
  { s with ckcrc := 0xFFFFFFFF, cksh := 0, ckcnt := 4, ckres := none, ckkind := none, ckst := .magic }

/-- `CK.START` (R172): restarts the checker in every state. -/
def execCkStart (s : State) : Result := unlessLocked s (complete 0 (ckStartState s))

/-- The `MAGIC` phase of `CK.BYTE` (R173): the byte enters `CKSH` and `CKCRC`; the fourth decides the phase. -/
def ckMagicByte (b : Byte) (s : State) : State :=
  if s.ckcnt - 1 = 0 then
    match Magic.ofNumber (shiftIn s.cksh b) with
    | some k => { s with cksh := shiftIn s.cksh b, ckcrc := crcStep s.ckcrc b, ckkind := some k,
                         ckcnt := k.plenCount, ckst := .payload }
    | none => { s with cksh := shiftIn s.cksh b, ckcrc := crcStep s.ckcrc b, ckcnt := 0,
                       ckres := some .badMagic, ckst := .idle }
  else { s with cksh := shiftIn s.cksh b, ckcrc := crcStep s.ckcrc b, ckcnt := s.ckcnt - 1 }

/-- The `PAYLOAD` phase of `CK.BYTE` (R173): the byte enters `CKCRC`; the last one opens the trailer. -/
def ckPayloadByte (b : Byte) (s : State) : State :=
  if s.ckcnt - 1 = 0 then { s with ckcrc := crcStep s.ckcrc b, cksh := 0, ckcnt := 4, ckst := .trailer }
  else { s with ckcrc := crcStep s.ckcrc b, ckcnt := s.ckcnt - 1 }

/-- The `TRAILER` phase of `CK.BYTE` (R173): the byte enters `CKSH`, not `CKCRC`; the fourth gives the verdict. -/
def ckTrailerByte (b : Byte) (s : State) : State :=
  if s.ckcnt - 1 = 0 then
    { s with cksh := shiftIn s.cksh b, ckcnt := 0, ckst := .idle,
             ckres := some (if shiftIn s.cksh b = s.ckcrc then .ok else .badCrc) }
  else { s with cksh := shiftIn s.cksh b, ckcnt := s.ckcnt - 1 }

/-- The state after one received byte, in the phase the checker is in; none with no check in progress (R173). -/
def ckByteState (b : Byte) (s : State) : Option State :=
  match s.ckst with
  | .idle => none
  | .magic => some (ckMagicByte b s)
  | .payload => some (ckPayloadByte b s)
  | .trailer => some (ckTrailerByte b s)

/-- `CK.BYTE b` (R173): `ERR_SEQ` with no check in progress; returns `CKRES`. A decrement at zero never happens (R15,
R23): the model stops there by name (log entry 6). -/
def execCkByte (b : Byte) (s : State) : Result :=
  unlessLocked s <|
    match ckByteState b s with
    | none => raise .errSeq s
    | some t => if s.ckcnt = 0 then .fault .counterUnderflow else complete (ckresCode t.ckres) t

/-- The last response was a completion that returned 0: the host goes on feeding (R175, R245). -/
def returnedZero (s : State) : Bool := s.resp == some { f := false, ret := 0 }

/-- `CK.BYTE` of each byte in order, stopping after the first that returns non-zero (R175, R245). -/
def ckFeedBytes : List Byte → State → Result
  | [], s => .next s
  | [b], s => execCkByte b s
  | b :: rest, s =>
    match execCkByte b s with
    | .next t => if returnedZero t then ckFeedBytes rest t else .next t
    | .fault r => .fault r
    | .refused r => .refused r

/-- `CK.FEED bytes` (R245): `CK.START`, then `CK.BYTE` of each byte until one returns non-zero. -/
def ckFeed (bytes : List Byte) (s : State) : Result :=
  match execCkStart s with
  | .next t => if returnedZero t then ckFeedBytes bytes t else .next t
  | .fault r => .fault r
  | .refused r => .refused r

end Sys2Proof.Machine
end

