-- ==== Sys2Proof/Machine/Packets.lean ====
section
/-! DEFINITION. The wire packets as instructions: a received packet is handed to the packet checker byte by byte, the
pseudo-operation `CK.FEED` of its bytes (spec/30_encoding.md R94 to R98, spec/43_rx_checker.md R175,
spec/47_host_sequences.md R245; DESIGN CHOICE, log entry 4). -/

namespace Sys2Proof.Machine

/-- A received `COMD` packet (R94): the payload is the command code, big-endian. -/
def execPktComd (code crc : Word) (s : State) : Result := ckFeed (packetBytes .comd (be32 code) crc) s

/-- A received `HEAD` packet (R95): the payload is the image size, big-endian. -/
def execPktHead (size crc : Word) (s : State) : Result := ckFeed (packetBytes .head (be32 size) crc) s

/-- A received `DATA` packet (R96): the payload is one raw block. -/
def execPktData (block : List Byte) (crc : Word) (s : State) : Result := ckFeed (packetBytes .data block crc) s

/-- A received `PASS` packet (R97): the payload is four raw bytes in stream order. -/
def execPktPass (p0 p1 p2 p3 : Byte) (crc : Word) (s : State) : Result :=
  ckFeed (packetBytes .pass [p0, p1, p2, p3] crc) s

/-- A received `RESP` packet (R98): the payload is the value, little-endian. -/
def execPktResp (v crc : Word) (s : State) : Result := ckFeed (packetBytes .resp (le32 v) crc) s

end Sys2Proof.Machine
end

