-- ==== Sys2Proof/Machine/System.lean ====
section
/-! DEFINITION. The system operations `RESET` and `RD` (spec/46_system.md R231, R232), and the decoder's fault (R283). -/

namespace Sys2Proof.Machine

/-- `RESET` (R231): every component to its reset value (R33); accepted while `FAULTED`. Bytes already emitted stay
emitted (R34, spec/90_conflicts.md C11; log entry 5). The parameters and what the host will present are no components of
the block (R20) and stay. -/
def execReset (s : State) : Result :=
  complete 0 { State.reset with params := s.params, tx := s.tx, inbox := s.inbox }

/-- `RD r` (R232): the register's value, nothing written; `ERR_REG` for a reserved number. Accepted while `FAULTED`,
where a faulting `RD` is refused (R284). -/
def execRd (r : Byte) (s : State) : Result :=
  match registerValue s r with
  | some v => complete v s
  | none => raise .errReg s

/-- An illegal command word (R103): not executed; it faults with `ERR_OP` (R283), or is refused by the lock (R284). -/
def illegalWord (s : State) : Result := raise .errOp s

end Sys2Proof.Machine
end

