-- ==== Sys2Proof/Machine/Dispatch.lean ====
section
/-! DEFINITION. The meaning of each instruction, one arm per constructor. -/

namespace Sys2Proof.Machine

def exec (i : Instr) (s : State) : Host.Outcome State Fault Refusal :=
  match i with
  | .reset => Sys2Proof.Machine.execReset s
  | .rd r => Sys2Proof.Machine.execRd r s
  | .crcInit => Sys2Proof.Machine.execCrcInit s
  | .crcByte b => Sys2Proof.Machine.execCrcByte b s
  | .crcCmp w => Sys2Proof.Machine.execCrcCmp w s
  | .txStart m => Sys2Proof.Machine.execTxStart m s
  | .txByte b => Sys2Proof.Machine.execTxByte b s
  | .ckStart => Sys2Proof.Machine.execCkStart s
  | .ckByte b => Sys2Proof.Machine.execCkByte b s
  | .lnClear => Sys2Proof.Machine.execLnClear s
  | .lnByte b => Sys2Proof.Machine.execLnByte b s
  | .lnResp => Sys2Proof.Machine.execLnResp s
  | .lnStat => Sys2Proof.Machine.execLnStat s
  | .keyLoad k => Sys2Proof.Machine.execKeyLoad k s
  | .keyClr => Sys2Proof.Machine.execKeyClr s
  | .xSync => Sys2Proof.Machine.execXSync s
  | .xByte b => Sys2Proof.Machine.execXByte b s
  | .xGrp w => Sys2Proof.Machine.execXGrp w s
  | .pktComd code crc => Sys2Proof.Machine.execPktComd code crc s
  | .pktHead size crc => Sys2Proof.Machine.execPktHead size crc s
  | .pktData block crc => Sys2Proof.Machine.execPktData block crc s
  | .pktPass p0 p1 p2 p3 crc => Sys2Proof.Machine.execPktPass p0 p1 p2 p3 crc s
  | .pktResp v crc => Sys2Proof.Machine.execPktResp v crc s

end Sys2Proof.Machine
end

