-- ==== Sys2Proof/Machine/Fetch.lean ====
section
/-! DEFINITION. Taking the next input the host presents, and running it: a legal command word or a whole packet is the
instruction it decodes to; an illegal command word faults (spec/30_encoding.md R103); any other received bytes are fed to
the packet checker as they are (spec/43_rx_checker.md R175). -/

namespace Sys2Proof.Machine

/-- The input at the head of the inbox and the state with it taken; none when the host presents nothing. -/
def takeInput (s : State) : Option (Input × State) :=
  match s.inbox with
  | [] => none
  | x :: rest => some (x, { s with inbox := rest })

/-- An input that decodes to no instruction: a command word is illegal (R103); received bytes that are no whole packet
are what `CK.FEED` of them gives, a verdict `BADMAGIC`, a verdict before the surplus, or a check still open (R175). -/
def runUndecoded (x : Input) (s : State) : Result :=
  match x with
  | .command _ => illegalWord s
  | .packet bytes => ckFeed bytes s

/-- One input: the instruction it stands for, or what the block does with an input that stands for none. -/
def runInput (x : Input) (s : State) : Result :=
  match decode x with
  | .ok i => exec i s
  | .error _ => runUndecoded x s

end Sys2Proof.Machine
end

