-- ==== Sys2Proof/Machine/Step.lean ====
section
/-! DEFINITION. One step: the next input the host presents is run; with none presented the block waits
(spec/60_exceptions.md R282, spec/70_reset_and_hazards.md R310, R331). -/

namespace Sys2Proof.Machine

/-- One step of the machine (log entry 1). -/
def step (s : State) : Host.Outcome State Fault Refusal :=
  match takeInput s with
  | none => .next s
  | some (x, t) => runInput x t

/-- `s` with the table row's word presented next, before whatever the host presents after it (log entries 1, 9). -/
def State.withFetchWord (s : State) (nbits w : Nat) : State :=
  { s with inbox := inputOfTable nbits w :: s.inbox }

end Sys2Proof.Machine
end

