-- ==== Sys2Proof/Machine/Pseudo.lean ====
section
/-! DEFINITION. Sequences of operations a host issues (spec/20_memory.md R70), and the pseudo-operations: fixed sequences
of the block's operations (spec/47_host_sequences.md R240 to R245). -/

namespace Sys2Proof.Machine

/-- The operations of a list in issue order, each seeing the state the one before left (R70). -/
def runInstrs : List Instr → State → Result
  | [], s => .next s
  | i :: rest, s =>
    match exec i s with
    | .next t => runInstrs rest t
    | .fault r => .fault r
    | .refused r => .refused r

/-- The same, with the response to each operation, in issue order; none where the model stops. -/
def runResponses : List Instr → State → Option (State × List Response)
  | [], s => some (s, [])
  | i :: rest, s =>
    match exec i s with
    | .next t => (runResponses rest t).map fun p => (p.1, t.resp.toList ++ p.2)
    | .fault _ => none
    | .refused _ => none

/-- `SEND.COMD code`, for a signed code, `c = code mod 2^32` (R240, R94). -/
def sendComd (code : Int) : List Instr := .txStart 0x434F4D44 :: (be32 (BitVec.ofInt 32 code)).map .txByte

/-- `SEND.HEAD size` (R241). -/
def sendHead (size : Word) : List Instr := .txStart 0x48454144 :: (be32 size).map .txByte

/-- `SEND.DATA block`, for a block of exactly 1024 bytes (R242). -/
def sendData (block : List Byte) : List Instr := .txStart 0x44415441 :: block.map .txByte

/-- `SEND.PASS p`, for a sequence of exactly 4 bytes (R243). -/
def sendPass (p : List Byte) : List Instr := .txStart 0x50415353 :: p.map .txByte

/-- `SEND.RESP v`, least significant byte first (R244). -/
def sendResp (v : Word) : List Instr := .txStart 0x52455350 :: (le32 v).map .txByte

/-- `CRC.FEED s`; it does not issue `CRC.INIT` (R245). -/
def crcFeed (bytes : List Byte) : List Instr := bytes.map .crcByte

/-- `LN.LOAD s` (R245). -/
def lnLoad (bytes : List Byte) : List Instr := .lnClear :: bytes.map .lnByte

/-- `X.FEED s` (R245). Its result is the sequence of the low bytes of the `X.BYTE` return values. -/
def xFeed (bytes : List Byte) : List Instr := .xSync :: bytes.map .xByte

/-- The result of `X.FEED`: the low bytes of the return values after the first, which is `X.SYNC`'s (R245). -/
def xFeedResult (responses : List Response) : List Byte := (responses.drop 1).map fun r => byteOf r.ret 0

/-- A complete check: `CK.START`, then `CK.BYTE` of every byte of a sequence, none left out (R174). -/
def ckAll (bytes : List Byte) : List Instr := .ckStart :: bytes.map .ckByte

end Sys2Proof.Machine
end

