-- ==== Sys2Proof/Machine/Environment.lean ====
section
/-! DEFINITION. The environment the block lives in: the host software of spec/47_host_sequences.md Part B (R246 to R258)
as pure functions and scripts over the block. None of it is part of the block and the step uses none of it (R5); log
entry 10 says what it leaves out. -/

namespace Sys2Proof.Machine

/-- A block padded on the right with the fill byte `0xFF` to 1024 bytes (R246). -/
def padBlock (chunk : List Byte) : List Byte := chunk ++ List.replicate (1024 - chunk.length) 0xFF

/-- The first `n` blocks of an image, each padded (R246). -/
def splitBlocks : Nat → List Byte → List (List Byte)
  | 0, _ => []
  | n + 1, image => padBlock (image.take 1024) :: splitBlocks n (image.drop 1024)

/-- The firmware chunker `split(image)`: `ceil(len(image)/1024)` blocks in order (R246). -/
def splitImage (image : List Byte) : List (List Byte) := splitBlocks ((image.length + 1023) / 1024) image

/-- The error kinds of the host's command that these scripts end in (R247, R290); `blockFault` is the block's own fault
seen by the host, `blockStopped` a stop of the model: both kinds are the model's, beside R290's (log entry 19). -/
inductive HostError where
  | framingTimeout
  | protocolNack
  | protocolFailureCode
  | uidEmpty
  | buttonNotPressed
  | bootloaderNotResponding
  | unsupportedCommand
  | blockFault (ret : Word)
  | blockStopped
  deriving DecidableEq, Repr

/-- The block as a host drives it, and what its successive line reads will yield: a line's bytes, or absence on a timeout
(R256). With the list used up, every further read times out. -/
structure HostState where
  block : State
  reads : List (Option (List Byte))
  deriving DecidableEq, Repr

/-- The reply to an exchange in terms of the block's verdicts (R255). -/
inductive Reply where
  | affirmative
  | negative
  | missing
  deriving DecidableEq, Repr

/-- One operation issued. What a host does when the block answers with a fault (a line longer than `LINE_MAX`, say) the
spec does not state (R290 has no kind for it): here the script ends at once (DESIGN CHOICE, log entry 19). -/
def issue (i : Instr) (h : HostState) : Except HostError HostState :=
  match exec i h.block with
  | .next t =>
    match t.resp with
    | some ⟨true, ret⟩ => .error (.blockFault ret)
    | _ => .ok { h with block := t }
  | _ => .error .blockStopped

/-- Operations issued in order. -/
def issueAll : List Instr → HostState → Except HostError HostState
  | [], h => .ok h
  | i :: rest, h =>
    match issue i h with
    | .ok h' => issueAll rest h'
    | .error e => .error e

/-- `read_line`: the next line, or absence (R256). -/
def readLine (h : HostState) : Option (List Byte) × HostState :=
  match h.reads with
  | [] => (none, h)
  | l :: rest => (l, { h with reads := rest })

/-- One line read and classified as a status line (R249, R255): `LN.LOAD line`, `LN.STAT`. -/
def awaitStatus (h : HostState) : Except HostError (Reply × HostState) :=
  match readLine h with
  | (none, h) => .ok (.missing, h)
  | (some line, h) => do
    let h ← issueAll (lnLoad line ++ [.lnStat]) h
    match h.block.sclass with
    | some .ack => pure (.affirmative, h)
    | some .nack => pure (.negative, h)
    | _ => pure (.missing, h)

/-- The error a spent retry ceiling reports: `ProtocolNack` when the device answered `NACK`, `FramingTimeout` when no
recognizable reply came (R290). Where the attempts mixed the two the spec is silent and the last reply decides (DESIGN
CHOICE, log entry 16). -/
def spent : Reply → HostError
  | .negative => .protocolNack
  | _ => .framingTimeout

/-- The retry policy around one exchange step (R255): send, await a classified reply; at most `ceiling` attempts, each
sending again; terminal failure when the ceiling is reached. -/
def exchange (send : List Instr) : Nat → Reply → HostState → Except HostError HostState
  | 0, last, _ => .error (spent last)
  | n + 1, _, h => do
    let h ← issueAll send h
    let (reply, h) ← awaitStatus h
    match reply with
    | .affirmative => pure h
    | r => exchange send n r h

/-- A wait for `RESP` (R251): lines are read, `LN.LOAD line`, `LN.RESP`, until the verdict is not `NOTFOUND` or the
ceiling is reached; absence is then the answer, and what it means is the command's (`awaitAnswer`, `uidValue`). -/
def awaitResponse : Nat → HostState → Except HostError (Option (RespClass × Word) × HostState)
  | 0, h => .ok (none, h)
  | n + 1, h =>
    match readLine h with
    | (none, h) => awaitResponse n h
    | (some line, h) => do
      let h ← issueAll (lnLoad line ++ [.lnResp]) h
      match h.block.rclass with
      | some .notFound => awaitResponse n h
      | some c => pure (some (c, h.block.rval), h)
      | none => awaitResponse n h

/-- A wait for `RESP` that a command needs answered: a spent ceiling is terminal (R255, R258; `FramingTimeout`, R290), and
so is the failure sentinel (`ProtocolFailureCode`, R290). `SUCCESS` and `OPAQUE` are handed on; whether an opaque value is
an error is not stated after `PASS` (spec/91_not_in_source.md N14). -/
def awaitAnswer (h : HostState) : Except HostError ((RespClass × Word) × HostState) := do
  let (answer, h) ← awaitResponse 10 h
  match answer with
  | none => .error .framingTimeout
  | some (.failure, _) => .error .protocolFailureCode
  | some a => pure (a, h)

/-- Up to `n` trailing lines read and dropped. A timeout stops the drain: R254 says so of the drain-only commands; of
Update Firmware's trailing drain (R250) the spec does not say it, and the model does the same there (DESIGN CHOICE, log
entry 15). -/
def drain : Nat → HostState → HostState
  | 0, h => h
  | n + 1, h =>
    match readLine h with
    | (none, h) => h
    | (some _, h) => drain n h

/-- `WAIT_BUTTON` (R247): lines are read until one holds either device phrase; the second phrase fails the session (the
up to 10 lines then drained are only printed), and so does no match within the ceiling. The exact bytes of the phrases
are not given (spec/91_not_in_source.md N12): they are arguments, looked for as substrings of the raw bytes, and in a line
that holds both the `pressed` phrase counts (DESIGN CHOICE, log entry 17). No operation of the block is issued. -/
def waitButton (pressed notPressed : List Byte) : Nat → HostState → Except HostError HostState
  | 0, _ => .error .bootloaderNotResponding
  | n + 1, h =>
    match readLine h with
    | (none, h) => waitButton pressed notPressed n h
    | (some line, h) =>
      if (find pressed line).isSome then .ok h
      else if (find notPressed line).isSome then .error .buttonNotPressed
      else waitButton pressed notPressed n h

/-- `DATA` packets of the blocks in order, each its own exchange with ceiling 10; the first spent ceiling aborts the
transfer (R249 step 4, R258). -/
def sendBlocks : List (List Byte) → HostState → Except HostError HostState
  | [], h => .ok h
  | b :: rest, h => do
    let h ← exchange (sendData b) 10 .missing h
    sendBlocks rest h

/-- Update Firmware, steps 1 to 6 (R249, R250): the unpadded size in `HEAD`, a response, the blocks, a drain. The spec does
not say whether an empty image is attempted, nor what `HEAD` carries for 2^32 bytes or more: here an empty image is sent
as size 0 with no block, and the size is taken modulo 2^32 (DESIGN CHOICE, log entry 14). -/
def updateFirmware (image : List Byte) (h : HostState) : Except HostError HostState := do
  let h ← exchange (sendHead (BitVec.ofNat 32 image.length)) 10 .missing h
  let (_, h) ← awaitAnswer h
  let h ← sendBlocks (splitImage image) h
  pure (drain 10 h)

/-- One read of Get UID: a present `OPAQUE` or `SUCCESS` value; an absent one is `UidEmpty` (R251, R290; spec/90_conflicts.md
C9). For a `FAILURE` verdict R251 names the same message and R290's table another kind; the model takes `UidEmpty` (DESIGN
CHOICE, log entry 18). -/
def uidValue (h : HostState) : Except HostError (Word × HostState) := do
  let (answer, h) ← awaitResponse 10 h
  match answer with
  | some (.opaqueValue, v) => pure (v, h)
  | some (.success, v) => pure (v, h)
  | _ => .error .uidEmpty

/-- Get UID: three reads, no packet sent (R251). -/
def getUid (h : HostState) : Except HostError ((Word × Word × Word) × HostState) := do
  let (u0, h) ← uidValue h
  let (u1, h) ← uidValue h
  let (u2, h) ← uidValue h
  pure ((u0, u1, u2), h)

/-- The device secret: the second UID value, as R257 derives it for a value whose rendering has 8 digits. For a value with
leading zero bytes the spec does not say what the conversion gives (spec/91_not_in_source.md N10); the model takes the
value itself there too (DESIGN CHOICE, log entry 13). -/
def deviceSecret (uid : Word × Word × Word) : Word := uid.2.1

/-- The bytes of `X.FEED data` under the key loaded now, and the block after it (R245). -/
def cipherBytes (data : List Byte) (h : HostState) : Except HostError (List Byte × HostState) := do
  let after ← issueAll (xFeed data) h
  match runResponses (xFeed data) h.block with
  | some (_, responses) => pure (xFeedResult responses, after)
  | none => .error .blockStopped

/-- `KEY.LOAD key`, `X.FEED data`, then the result as a `PASS` packet under the retry policy, then the `RESP` awaited for
confirmation (R252, R253); a spent ceiling of either is terminal (R255, R258). -/
def sendCiphered (key : Word) (data : List Byte) (h : HostState) :
    Except HostError ((RespClass × Word) × HostState) := do
  let h ← issue (.keyLoad key) h
  let (p, h) ← cipherBytes data h
  let h ← exchange (sendPass p) 10 .missing h
  awaitAnswer h

/-- Set Encryption Key (R252), for the operator key's four bytes in the order the host holds them (D32). -/
def setEncryptionKey (operatorKey : List Byte) (h : HostState) :
    Except HostError ((RespClass × Word) × HostState) := do
  let (uid, h) ← getUid h
  sendCiphered (deviceSecret uid) operatorKey h

/-- Check Key (R253): the word `TEST`, bytes `54 45 53 54`, under the operator key (spec/90_conflicts.md C8). -/
def checkKey (operatorKey : Word) (h : HostState) : Except HostError ((RespClass × Word) × HostState) :=
  sendCiphered operatorKey [0x54, 0x45, 0x53, 0x54] h

/-- The two menus of the host program; no modes of the block (R248, R291). -/
inductive Persona where
  | user
  | developer
  deriving DecidableEq, Repr

/-- The commands of the host program (R248). -/
inductive HostCommand where
  | updateFirmware
  | setEncryptionKey
  | optionByteCheck
  | lock
  | unlock
  | getUid
  | checkKey
  | erase
  deriving DecidableEq, Repr

/-- Every command, in the order of the developer's codes. -/
def HostCommand.all : List HostCommand :=
  [.updateFirmware, .setEncryptionKey, .optionByteCheck, .lock, .unlock, .getUid, .checkKey, .erase]

/-- The code a command is dispatched with, by persona; none for what the persona's menu does not offer (R248, as its
derived reading orders the codes; spec/90_conflicts.md C10). -/
def HostCommand.code : Persona → HostCommand → Option Int
  | .user, .updateFirmware => some 1
  | .user, .getUid => some 2
  | .user, .setEncryptionKey | .user, .optionByteCheck | .user, .lock | .user, .unlock | .user, .checkKey
  | .user, .erase => none
  | .developer, .updateFirmware => some 1
  | .developer, .setEncryptionKey => some 2
  | .developer, .optionByteCheck => some 3
  | .developer, .lock => some 4
  | .developer, .unlock => some 5
  | .developer, .getUid => some 6
  | .developer, .checkKey => some 7
  | .developer, .erase => some 8

/-- The command a code of a persona's menu names; none for a code with no handler there (R248). -/
def HostCommand.ofCode (persona : Persona) (code : Int) : Option HostCommand :=
  HostCommand.all.find? (·.code persona == some code)

/-- Dispatch: one `SEND.COMD` of the command's code in the persona's menu; what that menu does not offer has no handler:
UnsupportedCommand, and no packet is sent (R248, R290). -/
def dispatchCommand (persona : Persona) (c : HostCommand) (h : HostState) : Except HostError HostState :=
  match c.code persona with
  | some code => issueAll (sendComd code) h
  | none => .error .unsupportedCommand

/-- Dispatch by code: a code with no handler in the persona's menu is UnsupportedCommand, and no packet is sent (R248,
R290). -/
def dispatchCode (persona : Persona) (code : Int) (h : HostState) : Except HostError HostState :=
  match HostCommand.ofCode persona code with
  | some c => dispatchCommand persona c h
  | none => .error .unsupportedCommand

/-- A command with what the operator supplies to it (R249, R252, R253). -/
inductive HostRequest where
  | updateFirmware (image : List Byte)
  | setEncryptionKey (operatorKey : List Byte)
  | optionByteCheck
  | lock
  | unlock
  | getUid
  | checkKey (operatorKey : Word)
  | erase
  deriving DecidableEq, Repr

/-- The command of a request. -/
def HostRequest.command : HostRequest → HostCommand
  | .updateFirmware _ => .updateFirmware
  | .setEncryptionKey _ => .setEncryptionKey
  | .optionByteCheck => .optionByteCheck
  | .lock => .lock
  | .unlock => .unlock
  | .getUid => .getUid
  | .checkKey _ => .checkKey
  | .erase => .erase

/-- What a command that reaches `DONE` hands back: the three UID values (R251), the confirming response (R252, R253), or
nothing. -/
inductive HostAnswer where
  | done
  | uid (u0 u1 u2 : Word)
  | confirmed (cls : RespClass) (value : Word)
  deriving DecidableEq, Repr

/-- The steps of a command after its dispatch; `COMD` is not sent again (R248). The drain-only commands read up to 5
lines, and a timeout only stops the drain (R254). -/
def runSteps (request : HostRequest) (h : HostState) : Except HostError (HostAnswer × HostState) :=
  match request with
  | .updateFirmware image => do
    let h ← updateFirmware image h
    pure (.done, h)
  | .setEncryptionKey operatorKey => do
    let (answer, h) ← setEncryptionKey operatorKey h
    pure (.confirmed answer.1 answer.2, h)
  | .getUid => do
    let (uid, h) ← getUid h
    pure (.uid uid.1 uid.2.1 uid.2.2, h)
  | .checkKey operatorKey => do
    let (answer, h) ← checkKey operatorKey h
    pure (.confirmed answer.1 answer.2, h)
  | .optionByteCheck | .lock | .unlock | .erase => .ok (.done, drain 5 h)

/-- A whole command: its `COMD` packet, then its steps; every command is preceded by its `COMD` (R248). -/
def runCommand (persona : Persona) (request : HostRequest) (h : HostState) :
    Except HostError (HostAnswer × HostState) := do
  let h ← dispatchCommand persona request.command h
  runSteps request h

/-- A session: `WAIT_BUTTON` with the connection-level ceiling 10, `READY`, then the command (R247, R255, R312).
Whether and how a host drops the key at its end is left open (R324, R258: it should, by `KEY.CLR` or `RESET`); here neither
is issued and the key stays loaded (DESIGN CHOICE, log entry 20). -/
def runSession (pressed notPressed : List Byte) (persona : Persona) (request : HostRequest) (h : HostState) :
    Except HostError (HostAnswer × HostState) := do
  let h ← waitButton pressed notPressed 10 h
  runCommand persona request h

end Sys2Proof.Machine
end

