-- ==== Sys2Proof/Safety.lean ====
section
/-! DEFINITION. The terms claims are stated in: the invariants of the state (spec/10_state.md R23), the framing of the
transmit stream (spec/42_tx_framer.md R155), the units and what each holds (R30, R31), and agreement but for the key
(R32). -/

namespace Sys2Proof.Machine

/-- R23: the invariants of the sequencing state, with the bound on `LINE_MAX` of R9. `KIDX` in 0 to 3 is in its type. -/
structure StateInv (s : State) : Prop where
  lineMaxLegal : s.params.Legal
  txIdle : s.txst = .idle ↔ s.txrem = 0
  txRemaining : s.txrem.toNat ≤ 1024
  ckIdle : s.ckst = .idle ↔ s.ckcnt = 0
  ckFour : s.ckst = .magic ∨ s.ckst = .trailer → s.ckcnt.toNat ≤ 4
  ckRemaining : s.ckcnt.toNat ≤ 1024
  lineFits : s.ln.length ≤ s.params.lineMax
  faultedErr : s.faulted = true ↔ s.err ≠ none

/-- A packet the framer admits: a payload of exactly `plen(magic)` bytes (R151). -/
abbrev Admitted (p : Magic × List Byte) : Prop := p.2.length = p.1.plen

/-- The bytes of complete packets in order, each `encode(magic, payload)` (R150). -/
def framed (packets : List (Magic × List Byte)) : List Byte :=
  packets.flatMap fun p => encodePacket p.1.number p.2

/-- R155: `TX` is complete admitted packets and, with a packet open, the prefix `magic ‖ payload[0 .. plen - TXREM]` of
one more, whose CRC `TXCRC` holds. -/
def TxFramed (s : State) : Prop :=
  ∃ packets : List (Magic × List Byte), (∀ p ∈ packets, Admitted p) ∧
    match s.txst with
    | .idle => s.tx = framed packets
    | .payload => ∃ (m : Magic) (part : List Byte), part.length + s.txrem.toNat = m.plen ∧
        s.tx = framed packets ++ (be32 m.number ++ part) ∧ s.txcrc = crc32Mpeg2 (be32 m.number ++ part)

/-- The units of the block, and the system operations (R31, R101). -/
inductive BlockUnit where
  | system
  | crc
  | framer
  | checker
  | line
  | cipher
  deriving DecidableEq, Repr

/-- The unit of each instruction (R101); a received packet is the checker's. -/
def unitOf : Instr → BlockUnit
  | .reset | .rd _ => .system
  | .crcInit | .crcByte _ | .crcCmp _ => .crc
  | .txStart _ | .txByte _ => .framer
  | .ckStart | .ckByte _ => .checker
  | .lnClear | .lnByte _ | .lnResp | .lnStat => .line
  | .keyLoad _ | .keyClr | .xSync | .xByte _ | .xGrp _ => .cipher
  | .pktComd _ _ | .pktHead _ _ | .pktData _ _ | .pktPass _ _ _ _ _ | .pktResp _ _ => .checker

/-- Two states agree on what a unit holds (R31); the system operations hold nothing of their own. -/
def SameUnit (u : BlockUnit) (s t : State) : Prop :=
  match u with
  | .system => True
  | .crc => s.crc = t.crc ∧ s.crcok = t.crcok
  | .framer => s.txcrc = t.txcrc ∧ s.txst = t.txst ∧ s.txrem = t.txrem ∧ s.tx = t.tx
  | .checker => s.ckcrc = t.ckcrc ∧ s.ckst = t.ckst ∧ s.ckcnt = t.ckcnt ∧ s.cksh = t.cksh ∧ s.ckres = t.ckres ∧
      s.ckkind = t.ckkind
  | .line => s.ln = t.ln ∧ s.rclass = t.rclass ∧ s.rval = t.rval ∧ s.sclass = t.sclass
  | .cipher => s.key = t.key ∧ s.keyv = t.keyv ∧ s.kidx = t.kidx

/-- The state with another key in `KEY`: what two runs that differ only in the secret start from (R32). -/
def withKey (k : Word) (s : State) : State := { s with key := k }

/-- The instruction is `RESET` or an `RD` of an assigned register: what a faulted block accepts (R284). -/
def AcceptedWhileFaulted (i : Instr) : Prop := i = .reset ∨ ∃ r : Byte, i = .rd r ∧ r.toNat ≤ 9

/-- Every component but `TX` has its reset value (R33). -/
structure AtReset (s : State) : Prop where
  crc : s.crc = 0xFFFFFFFF
  crcok : s.crcok = false
  txcrc : s.txcrc = 0xFFFFFFFF
  txst : s.txst = .idle
  txrem : s.txrem = 0
  ckcrc : s.ckcrc = 0xFFFFFFFF
  ckst : s.ckst = .idle
  ckcnt : s.ckcnt = 0
  cksh : s.cksh = 0x00000000
  ckres : s.ckres = none
  ckkind : s.ckkind = none
  ln : s.ln = []
  rclass : s.rclass = none
  rval : s.rval = 0x00000000
  sclass : s.sclass = none
  key : s.key = 0x00000000
  keyv : s.keyv = false
  kidx : s.kidx = 0
  err : s.err = none
  faulted : s.faulted = false

/-- The components of R20. -/
inductive Component where
  | crc | crcok | txcrc | txst | txrem | ckcrc | ckst | ckcnt | cksh | ckres | ckkind
  | ln | rclass | rval | sclass | key | keyv | kidx | err | faulted | tx
  deriving DecidableEq, Repr

/-- Two states agree on a component. -/
def SameComponent (c : Component) (s t : State) : Prop :=
  match c with
  | .crc => s.crc = t.crc
  | .crcok => s.crcok = t.crcok
  | .txcrc => s.txcrc = t.txcrc
  | .txst => s.txst = t.txst
  | .txrem => s.txrem = t.txrem
  | .ckcrc => s.ckcrc = t.ckcrc
  | .ckst => s.ckst = t.ckst
  | .ckcnt => s.ckcnt = t.ckcnt
  | .cksh => s.cksh = t.cksh
  | .ckres => s.ckres = t.ckres
  | .ckkind => s.ckkind = t.ckkind
  | .ln => s.ln = t.ln
  | .rclass => s.rclass = t.rclass
  | .rval => s.rval = t.rval
  | .sclass => s.sclass = t.sclass
  | .key => s.key = t.key
  | .keyv => s.keyv = t.keyv
  | .kidx => s.kidx = t.kidx
  | .err => s.err = t.err
  | .faulted => s.faulted = t.faulted
  | .tx => s.tx = t.tx

/-- The table of R30: what each operation writes besides `ret`; a received packet writes what `CK.START` and `CK.BYTE`
write. `RESET` writes every component (and leaves the trace `TX`, R34). -/
def writesOf : Instr → List Component
  | .reset => [.crc, .crcok, .txcrc, .txst, .txrem, .ckcrc, .ckst, .ckcnt, .cksh, .ckres, .ckkind, .ln, .rclass, .rval,
      .sclass, .key, .keyv, .kidx, .err, .faulted, .tx]
  | .rd _ => []
  | .crcInit | .crcByte _ => [.crc]
  | .crcCmp _ => [.crcok]
  | .txStart _ | .txByte _ => [.txcrc, .txrem, .txst, .tx]
  | .ckStart | .ckByte _ | .pktComd _ _ | .pktHead _ _ | .pktData _ _ | .pktPass _ _ _ _ _ | .pktResp _ _ =>
      [.ckcrc, .ckst, .ckcnt, .cksh, .ckres, .ckkind]
  | .lnClear => [.ln, .rclass, .rval, .sclass]
  | .lnByte _ => [.ln]
  | .lnResp => [.rclass, .rval]
  | .lnStat => [.sclass]
  | .keyLoad _ | .keyClr => [.key, .keyv, .kidx]
  | .xSync | .xByte _ => [.kidx]
  | .xGrp _ => []

/-- Class N of R102: the opcode with `imm = 0` is the operation; any other immediate is illegal. -/
def EncodesNone (op : Byte) (i : Instr) : Prop :=
  ∀ imm : Word, decodeCommand (commandWord op imm) = if imm = 0 then .ok i else .error .immediateNotZero

/-- Classes B and R of R102: the operand is `imm[7:0]`; an immediate of 256 or more is illegal. -/
def EncodesByte (op : Byte) (mk : Byte → Instr) : Prop :=
  ∀ imm : Word, decodeCommand (commandWord op imm) =
    if imm.toNat < 256 then .ok (mk (BitVec.ofNat 8 imm.toNat)) else .error .highBitsNotZero

/-- Class W of R102: the operand is the immediate, every value legal. -/
def EncodesWord (op : Byte) (mk : Word → Instr) : Prop :=
  ∀ w : Word, decodeCommand (commandWord op w) = .ok (mk w)

/-- The state a fault with code `e` leaves (R282), written out. -/
def faultedWith (e : FaultCode) (s : State) : State :=
  { s with err := some e, faulted := true, resp := some { f := true, ret := errCode (some e) } }

/-- A command word that decodes to nothing faults with `ERR_OP` in a block that is not faulted (R103, R283). -/
def FaultsWithErrOp (op : Byte) (imm : Word) : Prop :=
  ∀ s : State, s.faulted = false → runInput (.command (commandWord op imm)) s = .next (faultedWith .errOp s)

/-- The operation is refused while the block is faulted: nothing changes, the response is `f = 1`, `ret = ERR` (R284). -/
def RefusedWhileFaulted (i : Instr) : Prop :=
  ∀ s : State, s.faulted = true → exec i s = .next { s with resp := some { f := true, ret := errCode s.err } }

/-- A completed operation's response (R14): `f = 0` and the return value. -/
def answered (ret : Word) : Option Response := some { f := false, ret := ret }

/-- What the checker holds after a whole received packet with a recognised magic (R173, R175): the recomputed CRC, the
received trailer, the magic, and `OK` (returned as 1) exactly when the two agree, else `BADCRC` (3). -/
def checkedPacket (k : Magic) (payload : List Byte) (crc : Word) (s : State) : State :=
  { s with ckcrc := crc32Mpeg2 (be32 k.number ++ payload), cksh := crc, ckcnt := 0, ckst := .idle, ckkind := some k,
           ckres := some (if crc = crc32Mpeg2 (be32 k.number ++ payload) then .ok else .badCrc),
           resp := answered (if crc = crc32Mpeg2 (be32 k.number ++ payload) then 1 else 3) }

end Sys2Proof.Machine
end

