-- ==== Sys2Proof/Certificates/Slice0/Obligations.lean ====
section
/-! DEFINITION. The statements about the block, for the provers. Rules R<n> are those of spec/. A statement that an
operation is refused while `FAULTED`, is illegal with a wrong immediate, or faults, says so in clauses of its own beside
the clause in which the operation completes. R23, R30, R31, R65, R68, R106, R132, R154 to R156, R174, R175, R197, R212 (b)
to (e), R213, R240 to R245 and the last sentences of R134, R170 and R217 are inferences that the spec marks as its own
([derived: ...]); a statement that rests on one has basis 'derived' in OBLIGATIONS.json. -/

open Sys2Proof Sys2Proof.Machine

/-! ### Reset and the system operations -/

/-- R33: every component has its reset value after power-on and after `RESET`; `TX` is empty at power-on. That a `RESET`
leaves the bytes already sent is the model's choice of the trace reading of R34 (log entry 5), which
spec/90_conflicts.md C11 puts before R33's table. -/
def Obligations.ResetValues : Prop :=
  AtReset State.reset ∧ State.reset.tx = [] ∧
    ∀ s : State, ∃ t, exec .reset s = .next t ∧ AtReset t ∧ t.tx = s.tx

/-- R231: `RESET` is `01 00000000`; it completes in every state, faulted or not, with every component at its reset value
and `ret = 0`; with `imm != 0` nothing is reset: `ERR_OP`, or ignored when already faulted; it is idempotent. That it
leaves `TX` (R34, C11), the parameters and the inbox is the model's choice (log entries 5, 3 and 1). -/
def Obligations.ResetOperation : Prop :=
  EncodesNone 0x01 .reset ∧ (∀ imm : Word, imm ≠ 0 → FaultsWithErrOp 0x01 imm) ∧
    (∀ (imm : Word) (s : State), imm ≠ 0 → s.faulted = true →
      runInput (.command (commandWord 0x01 imm)) s = .next { s with resp := some { f := true, ret := errCode s.err } }) ∧
    ∀ s : State, ∃ t, exec .reset s = .next t ∧ AtReset t ∧ t.resp = answered 0 ∧ t.tx = s.tx ∧ t.params = s.params ∧
      t.inbox = s.inbox ∧ exec .reset t = .next t

/-- R28, R232: `RD r` of an assigned register returns its value and writes nothing, faulted or not: `ERR` by the numbers
of R27, `STATUS` as `StatusLayout` says, `LNLEN` as the length's number where it fits in 32 bits (for a longer line the
spec states no value and some word is returned: log entry 7); of a reserved number it faults with `ERR_REG`, or is refused
while faulted. -/
def Obligations.RdOperation : Prop :=
  EncodesByte 0x02 .rd ∧ (∀ imm : Word, 256 ≤ imm.toNat → FaultsWithErrOp 0x02 imm) ∧
    (∀ (s : State) (r : Byte) (v : Word),
      [statusWord s,
        (match s.err with
          | none => 0 | some .errOp => 1 | some .errSeq => 2 | some .errMagic => 3 | some .errKey => 4
          | some .errOvf => 5 | some .errReg => 6),
        s.crc, s.txcrc, s.txrem.setWidth 32, s.ckcrc, s.ckcnt.setWidth 32, s.cksh, s.rval][r.toNat]? = some v →
      exec (.rd r) s = .next { s with resp := answered v }) ∧
    (∀ s : State, ∃ v : Word, exec (.rd 9) s = .next { s with resp := answered v } ∧
      (s.ln.length < 2 ^ 32 → v.toNat = s.ln.length)) ∧
    (∀ (s : State) (r : Byte), 10 ≤ r.toNat → s.faulted = false → exec (.rd r) s = .next (faultedWith .errReg s)) ∧
    ∀ (s : State) (r : Byte), 10 ≤ r.toNat → s.faulted = true →
      exec (.rd r) s = .next { s with resp := some { f := true, ret := errCode s.err } }

/-- R29 with the codes of R22 and R25: `STATUS` as a sum of its fields, each in its own bits, bits 31:18 zero; in every
state. -/
def Obligations.StatusLayout : Prop :=
  ∀ s : State,
    (statusWord s).toNat =
      (if s.faulted then 1 else 0) + (if s.crcok then 2 else 0) + (if s.keyv then 4 else 0) + 8 * s.kidx.toNat +
      (match s.txst with | .idle => 0 | .payload => 32) +
      (match s.ckst with | .idle => 0 | .magic => 64 | .payload => 128 | .trailer => 192) +
      256 * (match s.ckres with | none => 0 | some .ok => 1 | some .badMagic => 2 | some .badCrc => 3) +
      1024 * (match s.ckkind with
        | none => 0 | some .comd => 1 | some .head => 2 | some .data => 3 | some .pass => 4 | some .resp => 5) +
      8192 * (match s.rclass with
        | none => 0 | some .success => 1 | some .failure => 2 | some .opaqueValue => 3 | some .notFound => 4) +
      65536 * (match s.sclass with | none => 0 | some .ack => 1 | some .nack => 2 | some .unmatched => 3) ∧
    (statusWord s).toNat < 2 ^ 18

/-! ### The CRC unit -/

/-- R133: `CRC.INIT`. -/
def Obligations.CrcInitOperation : Prop :=
  EncodesNone 0x10 .crcInit ∧ (∀ imm : Word, imm ≠ 0 → FaultsWithErrOp 0x10 imm) ∧ RefusedWhileFaulted .crcInit ∧
    ∀ s : State, s.faulted = false →
      exec .crcInit s = .next { s with crc := 0xFFFFFFFF, resp := answered 0 }

/-- R134: `CRC.BYTE b`; and (the spec's own inference there, from R131) after `CRC.INIT` and the bytes of a message, `CRC`
is the message's checksum. -/
def Obligations.CrcByteOperation : Prop :=
  EncodesByte 0x11 .crcByte ∧ (∀ imm : Word, 256 ≤ imm.toNat → FaultsWithErrOp 0x11 imm) ∧
    (∀ b : Byte, RefusedWhileFaulted (.crcByte b)) ∧
    (∀ (s : State) (b : Byte), s.faulted = false →
      exec (.crcByte b) s = .next { s with crc := crcStep s.crc b, resp := answered 0 }) ∧
    ∀ (s : State) (message : List Byte), s.faulted = false →
      runInstrs (.crcInit :: message.map .crcByte) s =
        .next { s with crc := crc32Mpeg2 message, resp := answered 0 }

/-- R135: `CRC.CMP w`; it sets `CRCOK` to whether the accumulator equals the operand, and returns it. -/
def Obligations.CrcCmpOperation : Prop :=
  EncodesWord 0x12 .crcCmp ∧ (∀ w : Word, RefusedWhileFaulted (.crcCmp w)) ∧
    (∀ (s : State) (w : Word), s.faulted = false → s.crc = w →
      exec (.crcCmp w) s = .next { s with crcok := true, resp := answered 1 }) ∧
    ∀ (s : State) (w : Word), s.faulted = false → s.crc ≠ w →
      exec (.crcCmp w) s = .next { s with crcok := false, resp := answered 0 }

/-- R132 (a), (b): a checksum may be computed in pieces; the step is linear over GF(2). -/
def Obligations.CrcCompositionAndLinearity : Prop :=
  (∀ (c : Word) (s t : List Byte), crcBytes c (s ++ t) = crcBytes (crcBytes c s) t) ∧
    (∀ (c d : Word) (a b : Byte), crcStep (c ^^^ d) (a ^^^ b) = crcStep c a ^^^ crcStep d b) ∧ crcStep 0 0 = 0

/-- R132 (d), (e): the table form, with the table entries the rule gives (they fix the polynomial of R130), and the word
form. -/
def Obligations.CrcTableAndWordForm : Prop :=
  (∀ (c : Word) (b : Byte), crcStep c b = (c <<< 8) ^^^ crcStep 0 (byteOf c 3 ^^^ b)) ∧
    (crcStep 0 0 = 0x00000000 ∧ crcStep 0 1 = 0x04C11DB7 ∧ crcStep 0 2 = 0x09823B6E ∧ crcStep 0 3 = 0x0D4326D9 ∧
      crcStep 0 4 = 0x130476DC ∧ crcStep 0 128 = 0x690CE0EE ∧ crcStep 0 255 = 0xB1F740B4) ∧
    ∀ c w : Word, crcBytes c (be32 w) = crcShifts 32 (c ^^^ w)

/-- R132 (c): the residue law. From any accumulator four bytes lead to zero exactly when they are that accumulator, most
significant byte first; so a message followed by its checksum leaves zero. -/
def Obligations.CrcResidue : Prop :=
  (∀ (c : Word) (t0 t1 t2 t3 : Byte), crcBytes c [t0, t1, t2, t3] = 0 ↔ [t0, t1, t2, t3] = be32 c) ∧
    ∀ s : List Byte, crc32Mpeg2 (s ++ be32 (crc32Mpeg2 s)) = 0

/-! ### The transmit framer -/

/-- R152: `TX.START m`. In `IDLE` a packet magic goes out, first letter first, and the framer owes `plen(m)` bytes; any
other number is `ERR_MAGIC`; in an open packet every operand is `ERR_SEQ`. -/
def Obligations.TxStartOperation : Prop :=
  EncodesWord 0x20 .txStart ∧ (∀ m : Word, RefusedWhileFaulted (.txStart m)) ∧
    (∀ (s : State) (k : Magic), s.faulted = false → s.txst = .idle →
      exec (.txStart k.number) s = .next
        { s with txcrc := crcBytes 0xFFFFFFFF (be32 k.number), tx := s.tx ++ be32 k.number,
                 txrem := (if k = .data then 1024 else 4), txst := .payload,
                 resp := answered (if k = .data then 1024 else 4) }) ∧
    (∀ (s : State) (m : Word), s.faulted = false → s.txst = .payload →
      exec (.txStart m) s = .next (faultedWith .errSeq s)) ∧
    ∀ (s : State) (m : Word), s.faulted = false → s.txst = .idle →
      m ∉ [(0x434F4D44 : Word), 0x48454144, 0x44415441, 0x50415353, 0x52455350] →
      exec (.txStart m) s = .next (faultedWith .errMagic s)

/-- R153: `TX.BYTE b`. In an open packet the byte goes out, and after the last one the trailer, most significant byte
first; with no packet open `ERR_SEQ`. `TXREM` is not zero in an open packet (R23). -/
def Obligations.TxByteOperation : Prop :=
  EncodesByte 0x21 .txByte ∧ (∀ imm : Word, 256 ≤ imm.toNat → FaultsWithErrOp 0x21 imm) ∧
    (∀ b : Byte, RefusedWhileFaulted (.txByte b)) ∧
    (∀ (s : State) (b : Byte), s.faulted = false → s.txst = .payload → 1 < s.txrem.toNat →
      exec (.txByte b) s = .next
        { s with tx := s.tx ++ [b], txcrc := crcStep s.txcrc b, txrem := BitVec.ofNat 11 (s.txrem.toNat - 1),
                 resp := answered (BitVec.ofNat 32 (s.txrem.toNat - 1)) }) ∧
    (∀ (s : State) (b : Byte), s.faulted = false → s.txst = .payload → s.txrem.toNat = 1 →
      exec (.txByte b) s = .next
        { s with tx := s.tx ++ [b] ++ be32 (crcStep s.txcrc b), txcrc := crcStep s.txcrc b, txrem := 0, txst := .idle,
                 resp := answered 0 }) ∧
    ∀ (s : State) (b : Byte), s.faulted = false → s.txst = .idle →
      exec (.txByte b) s = .next (faultedWith .errSeq s)

/-- R156: from `IDLE`, `TX.START` and exactly `plen` `TX.BYTE` append `encode(M, p)` to `TX`, fault nowhere and end in
`IDLE`; everything else is as before, but `TXCRC`, which holds the trailer. -/
def Obligations.FramerAppendsEncodedPacket : Prop :=
  ∀ (s : State) (k : Magic) (p : List Byte), s.faulted = false → s.txst = .idle → s.txrem = 0 → p.length = k.plen →
    runInstrs (.txStart k.number :: p.map .txByte) s = .next
      { s with tx := s.tx ++ encodePacket k.number p, txcrc := crc32Mpeg2 (be32 k.number ++ p), resp := answered 0 }

/-- R155 at power-on: nothing has been emitted, and `TX` is a sequence of no packets. -/
def Obligations.TransmitStreamFramedAtReset : Prop := TxFramed State.reset

/-- R155: whatever input comes, `TX` stays a sequence of complete packets with right trailers and, with a packet open,
the prefix of one more whose CRC `TXCRC` holds; a `RESET` in an open packet is the one exception. -/
def Obligations.StepKeepsTransmitStreamFramed : Prop :=
  ∀ s t : State, TxFramed s → step s = .next t →
    (s.txst = .payload → s.inbox.head? ≠ some (.command 0x0100000000)) → TxFramed t

/-- R60, R61, R34: no step removes or changes a byte already emitted. -/
def Obligations.TransmitStreamOnlyGrows : Prop :=
  ∀ s t : State, step s = .next t → s.tx <+: t.tx

/-! ### The packet checker -/

/-- R172: `CK.START`. -/
def Obligations.CkStartOperation : Prop :=
  EncodesNone 0x30 .ckStart ∧ (∀ imm : Word, imm ≠ 0 → FaultsWithErrOp 0x30 imm) ∧ RefusedWhileFaulted .ckStart ∧
    ∀ s : State, s.faulted = false →
      exec .ckStart s = .next
        { s with ckcrc := 0xFFFFFFFF, cksh := 0, ckcnt := 4, ckres := none, ckkind := none, ckst := .magic,
                 resp := answered 0 }

/-- R173, encodings, faults and the `MAGIC` phase of `CK.BYTE b`. -/
def Obligations.CkByteInMagicPhase : Prop :=
  EncodesByte 0x31 .ckByte ∧ (∀ imm : Word, 256 ≤ imm.toNat → FaultsWithErrOp 0x31 imm) ∧
    (∀ b : Byte, RefusedWhileFaulted (.ckByte b)) ∧
    (∀ (s : State) (b : Byte), s.faulted = false → s.ckst = .idle →
      exec (.ckByte b) s = .next (faultedWith .errSeq s)) ∧
    (∀ (s : State) (b : Byte), s.faulted = false → s.ckst = .magic → 1 < s.ckcnt.toNat →
      exec (.ckByte b) s = .next
        { s with cksh := (s.cksh <<< 8) ||| b.setWidth 32, ckcrc := crcStep s.ckcrc b,
                 ckcnt := BitVec.ofNat 11 (s.ckcnt.toNat - 1), resp := answered (ckresCode s.ckres) }) ∧
    (∀ (s : State) (b : Byte) (k : Magic), s.faulted = false → s.ckst = .magic → s.ckcnt.toNat = 1 →
      (s.cksh <<< 8) ||| b.setWidth 32 = k.number →
      exec (.ckByte b) s = .next
        { s with cksh := k.number, ckcrc := crcStep s.ckcrc b, ckkind := some k,
                 ckcnt := (if k = .data then 1024 else 4), ckst := .payload,
                 resp := answered (ckresCode s.ckres) }) ∧
    ∀ (s : State) (b : Byte), s.faulted = false → s.ckst = .magic → s.ckcnt.toNat = 1 →
      (∀ k : Magic, (s.cksh <<< 8) ||| b.setWidth 32 ≠ k.number) →
      exec (.ckByte b) s = .next
        { s with cksh := (s.cksh <<< 8) ||| b.setWidth 32, ckcrc := crcStep s.ckcrc b, ckcnt := 0,
                 ckres := some .badMagic, ckst := .idle, resp := answered 2 }

/-- R173, the `PAYLOAD` and `TRAILER` phases of `CK.BYTE b`. -/
def Obligations.CkByteInPayloadAndTrailerPhases : Prop :=
  (∀ (s : State) (b : Byte), s.faulted = false → s.ckst = .payload → 1 < s.ckcnt.toNat →
      exec (.ckByte b) s = .next
        { s with ckcrc := crcStep s.ckcrc b, ckcnt := BitVec.ofNat 11 (s.ckcnt.toNat - 1),
                 resp := answered (ckresCode s.ckres) }) ∧
    (∀ (s : State) (b : Byte), s.faulted = false → s.ckst = .payload → s.ckcnt.toNat = 1 →
      exec (.ckByte b) s = .next
        { s with ckcrc := crcStep s.ckcrc b, cksh := 0, ckcnt := 4, ckst := .trailer,
                 resp := answered (ckresCode s.ckres) }) ∧
    (∀ (s : State) (b : Byte), s.faulted = false → s.ckst = .trailer → 1 < s.ckcnt.toNat →
      exec (.ckByte b) s = .next
        { s with cksh := (s.cksh <<< 8) ||| b.setWidth 32, ckcnt := BitVec.ofNat 11 (s.ckcnt.toNat - 1),
                 resp := answered (ckresCode s.ckres) }) ∧
    (∀ (s : State) (b : Byte), s.faulted = false → s.ckst = .trailer → s.ckcnt.toNat = 1 →
      (s.cksh <<< 8) ||| b.setWidth 32 = s.ckcrc →
      exec (.ckByte b) s = .next
        { s with cksh := s.ckcrc, ckcnt := 0, ckres := some .ok, ckst := .idle, resp := answered 1 }) ∧
    ∀ (s : State) (b : Byte), s.faulted = false → s.ckst = .trailer → s.ckcnt.toNat = 1 →
      (s.cksh <<< 8) ||| b.setWidth 32 ≠ s.ckcrc →
      exec (.ckByte b) s = .next
        { s with cksh := (s.cksh <<< 8) ||| b.setWidth 32, ckcnt := 0, ckres := some .badCrc, ckst := .idle,
                 resp := answered 3 }

/-- R170: `verify` of an encoded admitted packet, whatever follows it, is `Ok` with its magic and its payload. -/
def Obligations.VerifyAcceptsEncodedPackets : Prop :=
  ∀ (k : Magic) (p surplus : List Byte), p.length = k.plen →
    verify (encodePacket k.number p ++ surplus) = .ok k p

/-- R175: feeding a byte sequence from `CK.START` on agrees with `verify`. With `Ok` or `BadCrc` the byte at offset
`plen + 7` is the last fed and the only one to return non-zero, 1 or 3; with `BadMagic` the byte at offset 3 returns 2;
with `Incomplete` every byte returns 0 and a check is still in progress. No fault occurs. The verdict `OK` is exactly
the condition that the CRC over the whole packet, trailer included, is zero. -/
def Obligations.CheckerAgreesWithVerify : Prop :=
  ∀ (s : State) (bytes : List Byte), s.faulted = false →
    (∀ (k : Magic) (p : List Byte), verify bytes = .ok k p →
      ∃ t, runResponses (ckAll (bytes.take (k.plen + 8))) s =
          some (t, List.replicate (k.plen + 8) { f := false, ret := 0 } ++ [{ f := false, ret := 1 }]) ∧
        t.ckres = some .ok ∧ t.ckkind = some k ∧ t.ckst = .idle ∧
        crc32Mpeg2 (bytes.take (k.plen + 8)) = 0) ∧
    (∀ k : Magic, verify bytes = .badCrc k →
      ∃ t, runResponses (ckAll (bytes.take (k.plen + 8))) s =
          some (t, List.replicate (k.plen + 8) { f := false, ret := 0 } ++ [{ f := false, ret := 3 }]) ∧
        t.ckres = some .badCrc ∧ t.ckkind = some k ∧ t.ckst = .idle ∧
        crc32Mpeg2 (bytes.take (k.plen + 8)) ≠ 0) ∧
    (verify bytes = .badMagic →
      ∃ t, runResponses (ckAll (bytes.take 4)) s =
          some (t, List.replicate 4 { f := false, ret := 0 } ++ [{ f := false, ret := 2 }]) ∧
        t.ckres = some .badMagic ∧ t.ckkind = none ∧ t.ckst = .idle) ∧
    (verify bytes = .incomplete →
      ∃ t, runResponses (ckAll bytes) s =
          some (t, List.replicate (bytes.length + 1) { f := false, ret := 0 }) ∧ t.ckst ≠ .idle)

/-- R94 to R98 with R175 (that a received packet is handed to the checker is the model's choice, log entry 4): each
wire packet completes in a block that is not faulted, with the verdict `OK` exactly when its trailer is the CRC of its
magic and payload, and changes nothing outside the checker; a faulted block refuses it. -/
def Obligations.ReceivedPacketVerdicts : Prop :=
  (∀ (s : State) (code crc : Word), s.faulted = false →
      exec (.pktComd code crc) s = .next (checkedPacket .comd (be32 code) crc s)) ∧
    (∀ (s : State) (size crc : Word), s.faulted = false →
      exec (.pktHead size crc) s = .next (checkedPacket .head (be32 size) crc s)) ∧
    (∀ (s : State) (block : List Byte) (crc : Word), s.faulted = false → block.length = 1024 →
      exec (.pktData block crc) s = .next (checkedPacket .data block crc s)) ∧
    (∀ (s : State) (p0 p1 p2 p3 : Byte) (crc : Word), s.faulted = false →
      exec (.pktPass p0 p1 p2 p3 crc) s = .next (checkedPacket .pass [p0, p1, p2, p3] crc s)) ∧
    (∀ (s : State) (v crc : Word), s.faulted = false →
      exec (.pktResp v crc) s = .next (checkedPacket .resp (le32 v) crc s)) ∧
    (∀ w crc : Word, RefusedWhileFaulted (.pktComd w crc) ∧ RefusedWhileFaulted (.pktHead w crc) ∧
      RefusedWhileFaulted (.pktResp w crc)) ∧
    (∀ (block : List Byte) (crc : Word), RefusedWhileFaulted (.pktData block crc)) ∧
    ∀ (p0 p1 p2 p3 : Byte) (crc : Word), RefusedWhileFaulted (.pktPass p0 p1 p2 p3 crc)

/-! ### The line recogniser -/

/-- R190: `LN.CLEAR`. -/
def Obligations.LnClearOperation : Prop :=
  EncodesNone 0x40 .lnClear ∧ (∀ imm : Word, imm ≠ 0 → FaultsWithErrOp 0x40 imm) ∧ RefusedWhileFaulted .lnClear ∧
    ∀ s : State, s.faulted = false →
      exec .lnClear s = .next { s with ln := [], rclass := none, rval := 0, sclass := none, resp := answered 0 }

/-- R191: `LN.BYTE b`, for every `LINE_MAX`; a full buffer is `ERR_OVF`. The return value is the new length, as a number
where the length fits in 32 bits. -/
def Obligations.LnByteOperation : Prop :=
  EncodesByte 0x41 .lnByte ∧ (∀ imm : Word, 256 ≤ imm.toNat → FaultsWithErrOp 0x41 imm) ∧
    (∀ b : Byte, RefusedWhileFaulted (.lnByte b)) ∧
    (∀ (s : State) (b : Byte), s.faulted = false → s.ln.length < s.params.lineMax →
      ∃ ret : Word, exec (.lnByte b) s = .next { s with ln := s.ln ++ [b], resp := answered ret } ∧
        (s.ln.length + 1 < 2 ^ 32 → ret.toNat = s.ln.length + 1)) ∧
    ∀ (s : State) (b : Byte), s.faulted = false → s.ln.length = s.params.lineMax →
      exec (.lnByte b) s = .next (faultedWith .errOvf s)

/-- R192: `find` is the smallest offset at which a 4-byte pattern stands, and none where it stands nowhere. -/
def Obligations.FindIsSmallestOffset : Prop :=
  ∀ pat line : List Byte, pat.length = 4 →
    (∀ i : Nat, find pat line = some i ↔
      (i + 4 ≤ line.length ∧ (line.drop i).take 4 = pat ∧ ∀ j < i, (line.drop j).take 4 ≠ pat)) ∧
    (find pat line = none ↔ ∀ i : Nat, i + 4 ≤ line.length → (line.drop i).take 4 ≠ pat)

/-- R193: `decode_response` by the place of the first `RESP` in the line, said of the bytes themselves: what stands
before it holds none, and the four bytes after it are the value, least significant first. -/
def Obligations.DecodeResponseOutcomes : Prop :=
  (∀ line : List Byte, find [0x52, 0x45, 0x53, 0x50] line = none → decodeResponse line = .notFound) ∧
    ∀ (line : List Byte) (i : Nat), find [0x52, 0x45, 0x53, 0x50] line = some i →
      (line.length < i + 8 → decodeResponse line = .notFound) ∧
      ∀ v : Word, i + 8 ≤ line.length → (line.drop (i + 4)).take 4 = le32 v →
        (v = 0xFFFFFFFF → decodeResponse line = .success v) ∧
        (v = 0x33333333 → decodeResponse line = .failure v) ∧
        (v ≠ 0xFFFFFFFF → v ≠ 0x33333333 → decodeResponse line = .opaqueValue v)

/-- R194: `LN.RESP` writes the class and the value `decode_response` gives, value zero with `NOTFOUND`, and returns the
class's code. -/
def Obligations.LnRespOperation : Prop :=
  EncodesNone 0x42 .lnResp ∧ (∀ imm : Word, imm ≠ 0 → FaultsWithErrOp 0x42 imm) ∧ RefusedWhileFaulted .lnResp ∧
    ∀ s : State, s.faulted = false →
      (∀ v : Word, decodeResponse s.ln = .success v →
        exec .lnResp s = .next { s with rclass := some .success, rval := v, resp := answered 1 }) ∧
      (∀ v : Word, decodeResponse s.ln = .failure v →
        exec .lnResp s = .next { s with rclass := some .failure, rval := v, resp := answered 2 }) ∧
      (∀ v : Word, decodeResponse s.ln = .opaqueValue v →
        exec .lnResp s = .next { s with rclass := some .opaqueValue, rval := v, resp := answered 3 }) ∧
      (decodeResponse s.ln = .notFound →
        exec .lnResp s = .next { s with rclass := some .notFound, rval := 0, resp := answered 4 })

/-- R195: `classify_status_line` by whether the tokens stand anywhere in the line, for both values of
`STATUS_PRIORITY`. -/
def Obligations.ClassifyStatusLineOutcomes : Prop :=
  ∀ (priority : StatusPriority) (line : List Byte),
    ([0x41, 0x43, 0x4B, 0x57] <:+: line → ¬ [0x4E, 0x41, 0x43, 0x4B] <:+: line →
      classifyStatusLine priority line = .ack) ∧
    ([0x4E, 0x41, 0x43, 0x4B] <:+: line → ¬ [0x41, 0x43, 0x4B, 0x57] <:+: line →
      classifyStatusLine priority line = .nack) ∧
    ([0x41, 0x43, 0x4B, 0x57] <:+: line → [0x4E, 0x41, 0x43, 0x4B] <:+: line →
      classifyStatusLine priority line = match priority with | .ack => .ack | .nack => .nack) ∧
    (¬ [0x41, 0x43, 0x4B, 0x57] <:+: line → ¬ [0x4E, 0x41, 0x43, 0x4B] <:+: line →
      classifyStatusLine priority line = .unmatched)

/-- R196: `LN.STAT`, for every value of `STATUS_PRIORITY`. -/
def Obligations.LnStatOperation : Prop :=
  EncodesNone 0x43 .lnStat ∧ (∀ imm : Word, imm ≠ 0 → FaultsWithErrOp 0x43 imm) ∧ RefusedWhileFaulted .lnStat ∧
    ∀ s : State, s.faulted = false →
      (classifyStatusLine s.params.statusPriority s.ln = .ack →
        exec .lnStat s = .next { s with sclass := some .ack, resp := answered 1 }) ∧
      (classifyStatusLine s.params.statusPriority s.ln = .nack →
        exec .lnStat s = .next { s with sclass := some .nack, resp := answered 2 }) ∧
      (classifyStatusLine s.params.statusPriority s.ln = .unmatched →
        exec .lnStat s = .next { s with sclass := some .unmatched, resp := answered 3 })

/-- R197: loading a line that fits and asking for both classifications faults nowhere and leaves what the two functions
say; of a longer line the byte at offset `LINE_MAX` faults with `ERR_OVF`. For every value of the parameters. -/
def Obligations.LineSequenceClassifies : Prop :=
  ∀ (s : State) (line : List Byte), s.faulted = false →
    (line.length ≤ s.params.lineMax →
      ∃ t, runInstrs (lnLoad line ++ [.lnResp, .lnStat]) s = .next t ∧ t.faulted = false ∧ t.ln = line ∧
        t.rclass = some (decodeResponse line).cls ∧ t.rval = (decodeResponse line).value ∧
        t.sclass = some (classifyStatusLine s.params.statusPriority line)) ∧
    (∀ (b : Byte) (more : List Byte), line.length = s.params.lineMax →
      (∃ t, runInstrs (lnLoad line) s = .next t ∧ t.faulted = false) ∧
      ∃ t, runInstrs (lnLoad (line ++ b :: more)) s = .next t ∧ t.faulted = true ∧ t.err = some .errOvf ∧ t.ln = line)

/-! ### The cipher -/

/-- R214: `KEY.LOAD k`; every key is valid, zero included. -/
def Obligations.KeyLoadOperation : Prop :=
  EncodesWord 0x50 .keyLoad ∧ (∀ k : Word, RefusedWhileFaulted (.keyLoad k)) ∧
    ∀ (s : State) (k : Word), s.faulted = false →
      exec (.keyLoad k) s = .next { s with key := k, keyv := true, kidx := 0, resp := answered 0 }

/-- R215: `KEY.CLR`, with or without a key loaded. -/
def Obligations.KeyClrOperation : Prop :=
  EncodesNone 0x51 .keyClr ∧ (∀ imm : Word, imm ≠ 0 → FaultsWithErrOp 0x51 imm) ∧ RefusedWhileFaulted .keyClr ∧
    ∀ s : State, s.faulted = false →
      exec .keyClr s = .next { s with key := 0, keyv := false, kidx := 0, resp := answered 0 }

/-- R216: `X.SYNC`, with or without a key loaded. -/
def Obligations.XSyncOperation : Prop :=
  EncodesNone 0x52 .xSync ∧ (∀ imm : Word, imm ≠ 0 → FaultsWithErrOp 0x52 imm) ∧ RefusedWhileFaulted .xSync ∧
    ∀ s : State, s.faulted = false → exec .xSync s = .next { s with kidx := 0, resp := answered 0 }

/-- R217: `X.BYTE b`; the byte returned is `b ^ ((KEY >> (8 * KIDX)) & 0xFF)`, the index moves on modulo 4; with no key
`ERR_KEY`, and the index does not move. -/
def Obligations.XByteOperation : Prop :=
  EncodesByte 0x53 .xByte ∧ (∀ imm : Word, 256 ≤ imm.toNat → FaultsWithErrOp 0x53 imm) ∧
    (∀ b : Byte, RefusedWhileFaulted (.xByte b)) ∧
    (∀ (s : State) (b : Byte), s.faulted = false → s.keyv = true →
      exec (.xByte b) s = .next
        { s with kidx := BitVec.ofNat 2 ((s.kidx.toNat + 1) % 4),
                 resp := answered (b.setWidth 32 ^^^ ((s.key >>> (8 * s.kidx.toNat)) &&& 0xFF)) }) ∧
    ∀ (s : State) (b : Byte), s.faulted = false → s.keyv = false →
      exec (.xByte b) s = .next (faultedWith .errKey s)

/-- R218: `X.GRP w`; the index is neither read nor written; with no key `ERR_KEY`. -/
def Obligations.XGrpOperation : Prop :=
  EncodesWord 0x54 .xGrp ∧ (∀ w : Word, RefusedWhileFaulted (.xGrp w)) ∧
    (∀ (s : State) (w : Word), s.faulted = false → s.keyv = true →
      exec (.xGrp w) s = .next { s with resp := answered (w ^^^ s.key) }) ∧
    ∀ (s : State) (w : Word), s.faulted = false → s.keyv = false →
      exec (.xGrp w) s = .next (faultedWith .errKey s)

/-- R210: the stream transform byte by byte, at every offset of a buffer of any length. -/
def Obligations.XorTransformFormula : Prop :=
  ∀ (data : List Byte) (key : Word),
    (xorTransform data key).length = data.length ∧
    ∀ (i : Nat) (b : Byte), data[i]? = some b →
      (xorTransform data key)[i]? = some (b ^^^ ((key >>> (8 * (i % 4))) &&& 0xFF).setWidth 8)

/-- R212: involution in both modes, length, the identity and complementing keys, the difference law, the key bytes under
zeros, and two passes as one. -/
def Obligations.CipherLaws : Prop :=
  (∀ (data : List Byte) (key : Word), xorTransform (xorTransform data key) key = data) ∧
    (∀ (data out : List Byte) (key : Word), xorGroup data key = some out → xorGroup out key = some data) ∧
    (∀ (data : List Byte) (key : Word), (xorTransform data key).length = data.length) ∧
    (∀ data : List Byte, xorTransform data 0 = data ∧ xorTransform data 0xFFFFFFFF = data.map (~~~ ·)) ∧
    (∀ (a b : List Byte) (key : Word), a.length = b.length →
      List.zipWith (· ^^^ ·) (xorTransform a key) (xorTransform b key) = List.zipWith (· ^^^ ·) a b) ∧
    (∀ (n i : Nat) (key : Word), i < n →
      (xorTransform (List.replicate n 0) key)[i]? = (le32 key)[i % 4]?) ∧
    ∀ (data : List Byte) (k1 k2 : Word), xorTransform (xorTransform data k1) k2 = xorTransform data (k1 ^^^ k2)

/-- R211, R213: on whole groups the two modes agree; one group is a 32-bit XOR of the key with the group read
little-endian; a buffer that is no whole number of groups has no group-mode transform. -/
def Obligations.GroupModeAgreesWithStreamMode : Prop :=
  (∀ (data : List Byte) (key : Word), data.length % 4 = 0 → xorGroup data key = some (xorTransform data key)) ∧
    (∀ (data : List Byte) (key : Word), data.length % 4 ≠ 0 → xorGroup data key = none) ∧
    ∀ (g0 g1 g2 g3 : Byte) (key : Word), xorGroup [g0, g1, g2, g3] key = some (le32 (fromLe32 g0 g1 g2 g3 ^^^ key))

/-- R217 with R210: from a key and `KIDX = 0`, `X.BYTE` of each byte of a buffer returns the bytes of
`xor_transform(data, KEY)` in order; nothing but `KIDX` changes, and it counts the bytes modulo 4. -/
def Obligations.StreamOfBytesIsXorTransform : Prop :=
  ∀ (s : State) (data : List Byte), s.faulted = false → s.keyv = true → s.kidx = 0 →
    ∃ t, runResponses (data.map .xByte) s =
        some (t, (xorTransform data s.key).map fun b => { f := false, ret := b.setWidth 32 }) ∧
      { t with resp := s.resp } = { s with kidx := BitVec.ofNat 2 (data.length % 4) }

/-- R65: `X.GRP` of a group returns the word of the four bytes that four `X.BYTE` from `KIDX = 0` return; `CRC.CMP w`
returns 1 exactly when the four bytes of `w` are those of `CRC`. -/
def Obligations.MixedWidthViewsConsistent : Prop :=
  (∀ (s : State) (g0 g1 g2 g3 : Byte), s.faulted = false → s.keyv = true → s.kidx = 0 →
    ∃ (t u : State) (x0 x1 x2 x3 : Byte),
      runResponses ([g0, g1, g2, g3].map .xByte) s =
        some (t, [x0, x1, x2, x3].map fun b => { f := false, ret := b.setWidth 32 }) ∧
      exec (.xGrp (fromLe32 g0 g1 g2 g3)) s = .next u ∧ u.resp = answered (fromLe32 x0 x1 x2 x3)) ∧
    ∀ (s : State) (w : Word), s.faulted = false →
      ∃ t, exec (.crcCmp w) s = .next t ∧ (t.resp = answered 1 ↔ be32 w = be32 s.crc)

/-! ### Faults and the lock -/

/-- R284: while `FAULTED`, `RESET` and `RD` of an assigned register execute as their rules say; every other instruction,
and every illegal command word, changes nothing and is answered `f = 1`, `ret = ERR`. -/
def Obligations.LockRefusesEverythingElse : Prop :=
  ∀ s : State, s.faulted = true →
    (∃ t, exec .reset s = .next t ∧ AtReset t ∧ t.resp = answered 0) ∧
    (∀ r : Byte, r.toNat ≤ 9 → ∃ v, registerValue s r = some v ∧ exec (.rd r) s = .next { s with resp := answered v }) ∧
    (∀ i : Instr, ¬ AcceptedWhileFaulted i →
      exec i s = .next { s with resp := some { f := true, ret := errCode s.err } }) ∧
    ∀ (cmd : CommandWord) (e : DecodeError), decodeCommand cmd = .error e →
      runInput (.command cmd) s = .next { s with resp := some { f := true, ret := errCode s.err } }

/-- R281, R282: an input that leaves an unfaulted block faulted has written `ERR`, `FAULTED` and the response, and nothing
else. -/
def Obligations.FaultWritesNothingElse : Prop :=
  ∀ (x : Input) (s t : State), s.faulted = false → runInput x s = .next t → t.faulted = true →
    ∃ e : FaultCode, t = { s with err := some e, faulted := true, resp := some { f := true, ret := errCode (some e) } }

/-- R283, R285: which instruction raises which fault, and when, complete; an illegal command word raises `ERR_OP`; the six
codes by their numbers. -/
def Obligations.FaultCausesComplete : Prop :=
  [FaultCode.errOp, .errSeq, .errMagic, .errKey, .errOvf, .errReg].map (fun e => errCode (some e)) = [1, 2, 3, 4, 5, 6] ∧
  (∀ (i : Instr) (s t : State), s.faulted = false → s.err = none → exec i s = .next t →
    (t.err = some .errSeq ↔ (∃ m, i = .txStart m ∧ s.txst = .payload) ∨ (∃ b, i = .txByte b ∧ s.txst = .idle) ∨
      ∃ b, i = .ckByte b ∧ s.ckst = .idle) ∧
    (t.err = some .errMagic ↔ ∃ m, i = .txStart m ∧ s.txst = .idle ∧ ∀ k : Magic, m ≠ k.number) ∧
    (t.err = some .errKey ↔ s.keyv = false ∧ ((∃ b, i = .xByte b) ∨ ∃ w, i = .xGrp w)) ∧
    (t.err = some .errOvf ↔ ∃ b, i = .lnByte b ∧ s.ln.length = s.params.lineMax) ∧
    (t.err = some .errReg ↔ ∃ r, i = .rd r ∧ 10 ≤ r.toNat) ∧ t.err ≠ some .errOp) ∧
    ∀ (cmd : CommandWord) (e : DecodeError) (s : State), s.faulted = false → decodeCommand cmd = .error e →
      runInput (.command cmd) s = .next (faultedWith .errOp s)

/-! ### Whole-machine rules -/

/-- R30: an operation writes nothing but what its row lists (and the response); `ERR` and `FAULTED` are written by a fault
and by `RESET` only. -/
def Obligations.OperationsWriteOnlyTheirRow : Prop :=
  ∀ (i : Instr) (s t : State), exec i s = .next t →
    t.params = s.params ∧ t.inbox = s.inbox ∧
    (∀ c : Component, c ∉ writesOf i → c ≠ .err → c ≠ .faulted → SameComponent c s t) ∧
    (i ≠ .reset → (∃ ret, t.resp = answered ret) → t.err = s.err ∧ t.faulted = s.faulted)

/-- R31: what an operation of one unit does to that unit, and what it answers, depends on that unit's state alone, and it
leaves every other unit's state as it was. -/
def Obligations.UnitsShareNoState : Prop :=
  ∀ (i : Instr) (s s' t : State), unitOf i ≠ .system → s.faulted = false → s'.faulted = false → s.params = s'.params →
    SameUnit (unitOf i) s s' → exec i s = .next t →
    (∀ u : BlockUnit, u ≠ unitOf i → SameUnit u s t) ∧
    ∃ t', exec i s' = .next t' ∧ SameUnit (unitOf i) t t' ∧ t'.resp = t.resp ∧ t'.faulted = t.faulted

/-- R31: operations of different units that complete without a fault may be issued in either order: same responses, and
the same state but for the port of the last response. -/
def Obligations.OperationsOfDifferentUnitsCommute : Prop :=
  ∀ (i j : Instr) (s a b c d : State), unitOf i ≠ .system → unitOf j ≠ .system → unitOf i ≠ unitOf j →
    s.faulted = false → exec i s = .next a → a.faulted = false → exec j a = .next b →
    exec j s = .next c → c.faulted = false → exec i c = .next d →
    d.resp = a.resp ∧ c.resp = b.resp ∧ { b with resp := none } = { d with resp := none }

/-- R32: the key's value influences nothing but the results of `X.BYTE` and `X.GRP`: any other instruction answers the
same, and leaves states that differ in `KEY` at most, whatever key the block held. -/
def Obligations.KeyReachesOnlyTheCipherResults : Prop :=
  ∀ (i : Instr) (s t : State) (k : Word), (∀ b, i ≠ .xByte b) → (∀ w, i ≠ .xGrp w) → exec i s = .next t →
    ∃ t', exec i (withKey k s) = .next t' ∧ t'.resp = t.resp ∧ withKey 0 t' = withKey 0 t

/-- R68: the operations of the idempotent list, and `RESET`, done twice are as done once. -/
def Obligations.IdempotentOperations : Prop :=
  ∀ (i : Instr) (s t : State),
    (i ∈ [.reset, .crcInit, .ckStart, .lnClear, .lnResp, .lnStat, .keyClr, .xSync] ∨ (∃ r, i = .rd r) ∨
      (∃ w, i = .crcCmp w) ∨ (∃ k, i = .keyLoad k) ∨ ∃ w, i = .xGrp w) →
    exec i s = .next t → exec i t = .next t

/-- R23 (and R9) at power-on; that `LINE_MAX` is 64 there is the model's choice (log entry 3). -/
def Obligations.InvariantAtReset : Prop := StateInv State.reset

/-- R23: every step from a state that meets the invariants of the sequencing state leaves a state that meets them. -/
def Obligations.StepKeepsInvariant : Prop :=
  ∀ s t : State, StateInv s → step s = .next t → StateInv t

/-- R14, R15: in a state that meets R23 no input makes the machine stop: a step always answers a next state. -/
def Obligations.StepNeverStops : Prop :=
  ∀ s : State, StateInv s → ∃ t, step s = .next t

/-- A step runs the decoded instruction, with its input taken from the inbox (the model's choice, log entry 1); an illegal
command word takes the fault `ERR_OP` or is refused by the lock (R103, R283, R284); received bytes that are no whole packet
are fed to the checker as one input (the model's choice, log entry 4); with nothing presented the block waits. -/
def Obligations.StepRunsTheDecodedInstruction : Prop :=
  (∀ (s : State) (x : Input) (rest : List Input) (i : Instr), s.inbox = x :: rest → decode x = .ok i →
      step s = exec i { s with inbox := rest }) ∧
    (∀ (s : State) (cmd : CommandWord) (rest : List Input) (e : DecodeError), s.inbox = .command cmd :: rest →
      decodeCommand cmd = .error e → step s = .next (takeFault .errOp { s with inbox := rest })) ∧
    (∀ (s : State) (bytes : List Byte) (rest : List Input) (e : DecodeError), s.inbox = .packet bytes :: rest →
      decodePacket bytes = .error e → step s = ckFeed bytes { s with inbox := rest }) ∧
    ∀ s : State, s.inbox = [] → step s = .next s

/-! ### Encodings -/

/-- R106: the worked encodings, one per class, and four illegal words; and one received packet of R94. -/
def Obligations.WorkedEncodings : Prop :=
  decodeCommand 0x0100000000 = .ok .reset ∧ decodeCommand 0x0200000002 = .ok (.rd 2) ∧
    decodeCommand 0x1100000031 = .ok (.crcByte 0x31) ∧ decodeCommand 0x120376E6E7 = .ok (.crcCmp 0x0376E6E7) ∧
    decodeCommand 0x20434F4D44 = .ok (.txStart 0x434F4D44) ∧ decodeCommand 0x2100000001 = .ok (.txByte 0x01) ∧
    decodeCommand 0x505E6F7081 = .ok (.keyLoad 0x5E6F7081) ∧ decodeCommand 0x5404030201 = .ok (.xGrp 0x04030201) ∧
    decodeCommand 0x0000000000 = .error .reservedOp ∧ decodeCommand 0x0100000001 = .error .immediateNotZero ∧
    decodeCommand 0x1100000100 = .error .highBitsNotZero ∧ decodeCommand 0x1300000000 = .error .reservedOp ∧
    decodePacket [0x43, 0x4F, 0x4D, 0x44, 0x00, 0x00, 0x00, 0x01, 0x68, 0x60, 0x20, 0x0A] =
      .ok (.pktComd 1 0x6860200A)

/-- R100 to R104, R90 to R98: the decoder reads back every well-formed instruction from its encoding, with every operand
at every value. -/
def Obligations.DecodeReadsBackEncode : Prop :=
  ∀ i : Instr, i.wellFormed = true → decode (encode i) = .ok i

/-- R103, R104: an input has one meaning: what decodes to an instruction is that instruction's encoding, and the
instruction is well-formed. -/
def Obligations.EncodingIsUnique : Prop :=
  ∀ (x : Input) (i : Instr), decode x = .ok i → encode i = x ∧ i.wellFormed = true

/-- R103, R104: a command word is legal exactly when it matches a row of the opcode table by mask and match, then exactly
one; every other word is illegal. -/
def Obligations.DecoderAgreesWithOpcodeTable : Prop :=
  ∀ cmd : CommandWord,
    ((∃ i, decodeCommand cmd = .ok i) ↔ (opcodeRows.filter (·.hits cmd)).length = 1) ∧
    ((∃ e, decodeCommand cmd = .error e) ↔ opcodeRows.filter (·.hits cmd) = [])

/-! ### Pseudo-operations and the host software -/

/-- R240 to R244: each `SEND` pseudo-operation appends its packet to `TX`, the bytes of the wire encoding of R94 to R98
with the right trailer, and ends with no packet open. -/
def Obligations.SendPseudoOperationsAppendPackets : Prop :=
  ∀ s : State, s.faulted = false → s.txst = .idle →
    (∀ code : Int, ∃ t, runInstrs (sendComd code) s = .next t ∧ t.txst = .idle ∧ t.faulted = false ∧
      t.tx = s.tx ++ encodePacket 0x434F4D44 (be32 (BitVec.ofInt 32 code)) ∧
      encode (.pktComd (BitVec.ofInt 32 code) t.txcrc) = .packet (t.tx.drop s.tx.length)) ∧
    (∀ size : Word, ∃ t, runInstrs (sendHead size) s = .next t ∧ t.txst = .idle ∧ t.faulted = false ∧
      t.tx = s.tx ++ encodePacket 0x48454144 (be32 size) ∧
      encode (.pktHead size t.txcrc) = .packet (t.tx.drop s.tx.length)) ∧
    (∀ block : List Byte, block.length = 1024 → ∃ t, runInstrs (sendData block) s = .next t ∧ t.txst = .idle ∧
      t.faulted = false ∧ t.tx = s.tx ++ encodePacket 0x44415441 block ∧
      encode (.pktData block t.txcrc) = .packet (t.tx.drop s.tx.length)) ∧
    (∀ p0 p1 p2 p3 : Byte, ∃ t, runInstrs (sendPass [p0, p1, p2, p3]) s = .next t ∧ t.txst = .idle ∧
      t.faulted = false ∧ t.tx = s.tx ++ encodePacket 0x50415353 [p0, p1, p2, p3] ∧
      encode (.pktPass p0 p1 p2 p3 t.txcrc) = .packet (t.tx.drop s.tx.length)) ∧
    ∀ v : Word, ∃ t, runInstrs (sendResp v) s = .next t ∧ t.txst = .idle ∧ t.faulted = false ∧
      t.tx = s.tx ++ encodePacket 0x52455350 (le32 v) ∧
      encode (.pktResp v t.txcrc) = .packet (t.tx.drop s.tx.length)

/-- R245: `CRC.FEED` folds the CRC over the bytes; `X.FEED` results in `xor_transform(s, KEY)` from any stream position;
`CK.FEED` of an encoded packet gives `OK`. -/
def Obligations.FeedPseudoOperations : Prop :=
  (∀ (s : State) (bytes : List Byte), s.faulted = false →
      ∃ t, runInstrs (crcFeed bytes) s = .next t ∧ t.faulted = false ∧ t.crc = crcBytes s.crc bytes) ∧
    (∀ (s : State) (bytes : List Byte), s.faulted = false → s.keyv = true →
      ∃ t responses, runResponses (xFeed bytes) s = some (t, responses) ∧ t.faulted = false ∧
        xFeedResult responses = xorTransform bytes s.key) ∧
    ∀ (s : State) (k : Magic) (p surplus : List Byte), s.faulted = false → p.length = k.plen →
      ∃ t, ckFeed (encodePacket k.number p ++ surplus) s = .next t ∧ t.ckres = some .ok ∧ t.ckkind = some k ∧
        t.resp = answered 1

/-- R246 (host software, outside the block): the chunker's blocks are `ceil(len/1024)` many, each of 1024 bytes, their
first `len(image)` bytes are the image, and the rest is the fill byte `0xFF`. -/
def Obligations.ChunkerProperties : Prop :=
  ∀ image : List Byte,
    (splitImage image).length = (image.length + 1023) / 1024 ∧
    (∀ b ∈ splitImage image, b.length = 1024) ∧
    (splitImage image).flatten.take image.length = image ∧
    ∀ x ∈ (splitImage image).flatten.drop image.length, x = 0xFF

/-- R255 (host software, outside the block), for an exchange that sends a packet (`sendComd`, `sendHead`, `sendData` of a
block, `sendPass` and `sendResp` are such sends) or nothing: with a transport that gives no affirmative reply (lines that
time out, or fit and are not classified `Ack`), it fails when the ceiling of attempts is reached, not before (one more
attempt would have read the waiting `ACKW` line) and not after; each attempt sends again. -/
def Obligations.RetryStopsAtTheCeiling : Prop :=
  ∀ (send : List Instr) (bytes : List Byte) (reads : List (Option (List Byte))) (block : State),
    (send = [] ∧ bytes = [] ∨ ∃ (k : Magic) (p : List Byte), p.length = k.plen ∧ block.txst = .idle ∧
      send = .txStart k.number :: p.map .txByte ∧ bytes = encodePacket k.number p) →
    block.faulted = false → block.params.Legal →
    (∀ line, some line ∈ reads →
      line.length ≤ block.params.lineMax ∧ classifyStatusLine block.params.statusPriority line ≠ .ack) →
    (∃ e, (e = .framingTimeout ∨ e = .protocolNack) ∧
      exchange send reads.length .missing ⟨block, reads ++ [some [0x41, 0x43, 0x4B, 0x57]]⟩ = .error e) ∧
    ∃ h, exchange send (reads.length + 1) .missing ⟨block, reads ++ [some [0x41, 0x43, 0x4B, 0x57]]⟩ = .ok h ∧
      h.reads = [] ∧ h.block.tx = block.tx ++ (List.replicate (reads.length + 1) bytes).flatten
end

