-- ==== Sys2Proof/Laws/Bytes.lean ====
section
/-! SUPPORT. Words and byte sequences: the conversions invert each other, and the magic words as numbers. -/

namespace Sys2Proof

theorem fromBe32_byteOf (w : Word) : fromBe32 (byteOf w 3) (byteOf w 2) (byteOf w 1) (byteOf w 0) = w := by
  ext i hi
  simp only [fromBe32, byteOf, BitVec.getElem_or, BitVec.getElem_shiftLeft, BitVec.getElem_setWidth,
    BitVec.getLsbD_setWidth, BitVec.getLsbD_ushiftRight]
  interval_cases i <;> simp

theorem byteOf_fromBe32 (a b c d : Byte) :
    byteOf (fromBe32 a b c d) 3 = a ∧ byteOf (fromBe32 a b c d) 2 = b ∧
      byteOf (fromBe32 a b c d) 1 = c ∧ byteOf (fromBe32 a b c d) 0 = d := by
  refine ⟨?_, ?_, ?_, ?_⟩ <;> ext i hi <;> simp [byteOf, fromBe32, hi] <;> interval_cases i <;> simp

theorem fromLe32_eq_fromBe32 (a b c d : Byte) : fromLe32 a b c d = fromBe32 d c b a := by
  ext i hi
  simp only [fromBe32, fromLe32, BitVec.getElem_or]
  ac_rfl

@[simp] theorem be32_fromBe32 (a b c d : Byte) : be32 (fromBe32 a b c d) = [a, b, c, d] := by
  obtain ⟨h3, h2, h1, h0⟩ := byteOf_fromBe32 a b c d
  simp [be32, h3, h2, h1, h0]

@[simp] theorem le32_fromLe32 (a b c d : Byte) : le32 (fromLe32 a b c d) = [a, b, c, d] := by
  obtain ⟨h3, h2, h1, h0⟩ := byteOf_fromBe32 d c b a
  simp [le32, fromLe32_eq_fromBe32, h3, h2, h1, h0]

theorem fromLe32_byteOf (w : Word) : fromLe32 (byteOf w 0) (byteOf w 1) (byteOf w 2) (byteOf w 3) = w := by
  rw [fromLe32_eq_fromBe32, fromBe32_byteOf]

@[simp] theorem be32_length (w : Word) : (be32 w).length = 4 := rfl

@[simp] theorem le32_length (w : Word) : (le32 w).length = 4 := rfl

theorem be32_injective {v w : Word} (h : be32 v = be32 w) : v = w := by
  simp only [be32, List.cons.injEq] at h
  obtain ⟨h3, h2, h1, h0, -⟩ := h
  rw [← fromBe32_byteOf v, ← fromBe32_byteOf w, h3, h2, h1, h0]

/-- Four bytes entered one after the other are the shift register's whole contents, first byte in bits 31:24. -/
theorem shiftIn_four (s : Word) (a b c d : Byte) :
    shiftIn (shiftIn (shiftIn (shiftIn s a) b) c) d = fromBe32 a b c d := by
  ext i hi
  simp [fromBe32, shiftIn]
  interval_cases i <;> simp

@[simp] theorem Magic.ofNumber_number (k : Magic) : Magic.ofNumber k.number = some k := by
  cases k <;> decide

theorem Magic.ofNumber_eq_some {w : Word} {k : Magic} : Magic.ofNumber w = some k ↔ w = k.number := by
  constructor
  · intro h
    unfold Magic.ofNumber at h
    split_ifs at h <;> simp_all [Magic.number] <;> cases h <;> rfl
  · rintro rfl
    exact Magic.ofNumber_number k

theorem Magic.ofNumber_eq_none {w : Word} : Magic.ofNumber w = none ↔ ∀ k : Magic, w ≠ k.number := by
  cases h : Magic.ofNumber w with
  | none =>
    refine iff_of_true rfl fun k hk => ?_
    rw [Magic.ofNumber_eq_some.2 hk] at h
    cases h
  | some k => exact iff_of_false (by simp) fun hk => hk k (Magic.ofNumber_eq_some.1 h)

/-- A payload length is 1024 for `DATA` and 4 for the others, as a number and as a counter value. -/
theorem Magic.plen_cases (k : Magic) :
    (k = .data ∧ k.plen = 1024 ∧ k.plenCount = 1024) ∨ (k ≠ .data ∧ k.plen = 4 ∧ k.plenCount = 4) := by
  cases k <;> decide

@[simp] theorem Magic.plenCount_toNat (k : Magic) : k.plenCount.toNat = k.plen := by
  cases k <;> decide

theorem Magic.plen_pos (k : Magic) : 0 < k.plen := by cases k <;> decide

theorem Magic.plen_le (k : Magic) : k.plen ≤ 1024 := by cases k <;> decide

@[simp] theorem packetBytes_length (k : Magic) (p : List Byte) (crc : Word) :
    (packetBytes k p crc).length = p.length + 8 := by
  simp [packetBytes]; omega

end Sys2Proof
end

