-- ==== Sys2Proof/Laws/State.lean ====
section
/-! SUPPORT. What each named update of the state leaves in each field, so that no later proof unfolds one. -/

namespace Sys2Proof.Machine


/-! ### `respond` writes `resp` only -/

@[simp] theorem respond_params (ret : Word) (s : State) : (respond ret s).params = s.params := rfl
@[simp] theorem respond_crc (ret : Word) (s : State) : (respond ret s).crc = s.crc := rfl
@[simp] theorem respond_crcok (ret : Word) (s : State) : (respond ret s).crcok = s.crcok := rfl
@[simp] theorem respond_txcrc (ret : Word) (s : State) : (respond ret s).txcrc = s.txcrc := rfl
@[simp] theorem respond_txst (ret : Word) (s : State) : (respond ret s).txst = s.txst := rfl
@[simp] theorem respond_txrem (ret : Word) (s : State) : (respond ret s).txrem = s.txrem := rfl
@[simp] theorem respond_ckcrc (ret : Word) (s : State) : (respond ret s).ckcrc = s.ckcrc := rfl
@[simp] theorem respond_ckst (ret : Word) (s : State) : (respond ret s).ckst = s.ckst := rfl
@[simp] theorem respond_ckcnt (ret : Word) (s : State) : (respond ret s).ckcnt = s.ckcnt := rfl
@[simp] theorem respond_cksh (ret : Word) (s : State) : (respond ret s).cksh = s.cksh := rfl
@[simp] theorem respond_ckres (ret : Word) (s : State) : (respond ret s).ckres = s.ckres := rfl
@[simp] theorem respond_ckkind (ret : Word) (s : State) : (respond ret s).ckkind = s.ckkind := rfl
@[simp] theorem respond_ln (ret : Word) (s : State) : (respond ret s).ln = s.ln := rfl
@[simp] theorem respond_rclass (ret : Word) (s : State) : (respond ret s).rclass = s.rclass := rfl
@[simp] theorem respond_rval (ret : Word) (s : State) : (respond ret s).rval = s.rval := rfl
@[simp] theorem respond_sclass (ret : Word) (s : State) : (respond ret s).sclass = s.sclass := rfl
@[simp] theorem respond_key (ret : Word) (s : State) : (respond ret s).key = s.key := rfl
@[simp] theorem respond_keyv (ret : Word) (s : State) : (respond ret s).keyv = s.keyv := rfl
@[simp] theorem respond_kidx (ret : Word) (s : State) : (respond ret s).kidx = s.kidx := rfl
@[simp] theorem respond_err (ret : Word) (s : State) : (respond ret s).err = s.err := rfl
@[simp] theorem respond_faulted (ret : Word) (s : State) : (respond ret s).faulted = s.faulted := rfl
@[simp] theorem respond_tx (ret : Word) (s : State) : (respond ret s).tx = s.tx := rfl
@[simp] theorem respond_resp (ret : Word) (s : State) :
    (respond ret s).resp = some { f := false, ret := ret } := rfl
@[simp] theorem respond_inbox (ret : Word) (s : State) : (respond ret s).inbox = s.inbox := rfl

/-! ### `refuse` writes `resp` only -/

@[simp] theorem refuse_params (s : State) : (refuse s).params = s.params := rfl
@[simp] theorem refuse_crc (s : State) : (refuse s).crc = s.crc := rfl
@[simp] theorem refuse_crcok (s : State) : (refuse s).crcok = s.crcok := rfl
@[simp] theorem refuse_txcrc (s : State) : (refuse s).txcrc = s.txcrc := rfl
@[simp] theorem refuse_txst (s : State) : (refuse s).txst = s.txst := rfl
@[simp] theorem refuse_txrem (s : State) : (refuse s).txrem = s.txrem := rfl
@[simp] theorem refuse_ckcrc (s : State) : (refuse s).ckcrc = s.ckcrc := rfl
@[simp] theorem refuse_ckst (s : State) : (refuse s).ckst = s.ckst := rfl
@[simp] theorem refuse_ckcnt (s : State) : (refuse s).ckcnt = s.ckcnt := rfl
@[simp] theorem refuse_cksh (s : State) : (refuse s).cksh = s.cksh := rfl
@[simp] theorem refuse_ckres (s : State) : (refuse s).ckres = s.ckres := rfl
@[simp] theorem refuse_ckkind (s : State) : (refuse s).ckkind = s.ckkind := rfl
@[simp] theorem refuse_ln (s : State) : (refuse s).ln = s.ln := rfl
@[simp] theorem refuse_rclass (s : State) : (refuse s).rclass = s.rclass := rfl
@[simp] theorem refuse_rval (s : State) : (refuse s).rval = s.rval := rfl
@[simp] theorem refuse_sclass (s : State) : (refuse s).sclass = s.sclass := rfl
@[simp] theorem refuse_key (s : State) : (refuse s).key = s.key := rfl
@[simp] theorem refuse_keyv (s : State) : (refuse s).keyv = s.keyv := rfl
@[simp] theorem refuse_kidx (s : State) : (refuse s).kidx = s.kidx := rfl
@[simp] theorem refuse_err (s : State) : (refuse s).err = s.err := rfl
@[simp] theorem refuse_faulted (s : State) : (refuse s).faulted = s.faulted := rfl
@[simp] theorem refuse_tx (s : State) : (refuse s).tx = s.tx := rfl
@[simp] theorem refuse_resp (s : State) : (refuse s).resp = some { f := true, ret := errCode s.err } := rfl
@[simp] theorem refuse_inbox (s : State) : (refuse s).inbox = s.inbox := rfl

/-! ### `emit` writes `tx` only -/

@[simp] theorem emit_params (bytes : List Byte) (s : State) : (emit bytes s).params = s.params := rfl
@[simp] theorem emit_crc (bytes : List Byte) (s : State) : (emit bytes s).crc = s.crc := rfl
@[simp] theorem emit_crcok (bytes : List Byte) (s : State) : (emit bytes s).crcok = s.crcok := rfl
@[simp] theorem emit_txcrc (bytes : List Byte) (s : State) : (emit bytes s).txcrc = s.txcrc := rfl
@[simp] theorem emit_txst (bytes : List Byte) (s : State) : (emit bytes s).txst = s.txst := rfl
@[simp] theorem emit_txrem (bytes : List Byte) (s : State) : (emit bytes s).txrem = s.txrem := rfl
@[simp] theorem emit_ckcrc (bytes : List Byte) (s : State) : (emit bytes s).ckcrc = s.ckcrc := rfl
@[simp] theorem emit_ckst (bytes : List Byte) (s : State) : (emit bytes s).ckst = s.ckst := rfl
@[simp] theorem emit_ckcnt (bytes : List Byte) (s : State) : (emit bytes s).ckcnt = s.ckcnt := rfl
@[simp] theorem emit_cksh (bytes : List Byte) (s : State) : (emit bytes s).cksh = s.cksh := rfl
@[simp] theorem emit_ckres (bytes : List Byte) (s : State) : (emit bytes s).ckres = s.ckres := rfl
@[simp] theorem emit_ckkind (bytes : List Byte) (s : State) : (emit bytes s).ckkind = s.ckkind := rfl
@[simp] theorem emit_ln (bytes : List Byte) (s : State) : (emit bytes s).ln = s.ln := rfl
@[simp] theorem emit_rclass (bytes : List Byte) (s : State) : (emit bytes s).rclass = s.rclass := rfl
@[simp] theorem emit_rval (bytes : List Byte) (s : State) : (emit bytes s).rval = s.rval := rfl
@[simp] theorem emit_sclass (bytes : List Byte) (s : State) : (emit bytes s).sclass = s.sclass := rfl
@[simp] theorem emit_key (bytes : List Byte) (s : State) : (emit bytes s).key = s.key := rfl
@[simp] theorem emit_keyv (bytes : List Byte) (s : State) : (emit bytes s).keyv = s.keyv := rfl
@[simp] theorem emit_kidx (bytes : List Byte) (s : State) : (emit bytes s).kidx = s.kidx := rfl
@[simp] theorem emit_err (bytes : List Byte) (s : State) : (emit bytes s).err = s.err := rfl
@[simp] theorem emit_faulted (bytes : List Byte) (s : State) : (emit bytes s).faulted = s.faulted := rfl
@[simp] theorem emit_tx (bytes : List Byte) (s : State) : (emit bytes s).tx = s.tx ++ bytes := rfl
@[simp] theorem emit_resp (bytes : List Byte) (s : State) : (emit bytes s).resp = s.resp := rfl
@[simp] theorem emit_inbox (bytes : List Byte) (s : State) : (emit bytes s).inbox = s.inbox := rfl

/-! ### `takeFault` writes `err`, `faulted` and `resp` only, and leaves the block faulted -/

@[simp] theorem takeFault_params (e : FaultCode) (s : State) : (takeFault e s).params = s.params := by
  unfold takeFault; split <;> rfl
@[simp] theorem takeFault_crc (e : FaultCode) (s : State) : (takeFault e s).crc = s.crc := by
  unfold takeFault; split <;> rfl
@[simp] theorem takeFault_crcok (e : FaultCode) (s : State) : (takeFault e s).crcok = s.crcok := by
  unfold takeFault; split <;> rfl
@[simp] theorem takeFault_txcrc (e : FaultCode) (s : State) : (takeFault e s).txcrc = s.txcrc := by
  unfold takeFault; split <;> rfl
@[simp] theorem takeFault_txst (e : FaultCode) (s : State) : (takeFault e s).txst = s.txst := by
  unfold takeFault; split <;> rfl
@[simp] theorem takeFault_txrem (e : FaultCode) (s : State) : (takeFault e s).txrem = s.txrem := by
  unfold takeFault; split <;> rfl
@[simp] theorem takeFault_ckcrc (e : FaultCode) (s : State) : (takeFault e s).ckcrc = s.ckcrc := by
  unfold takeFault; split <;> rfl
@[simp] theorem takeFault_ckst (e : FaultCode) (s : State) : (takeFault e s).ckst = s.ckst := by
  unfold takeFault; split <;> rfl
@[simp] theorem takeFault_ckcnt (e : FaultCode) (s : State) : (takeFault e s).ckcnt = s.ckcnt := by
  unfold takeFault; split <;> rfl
@[simp] theorem takeFault_cksh (e : FaultCode) (s : State) : (takeFault e s).cksh = s.cksh := by
  unfold takeFault; split <;> rfl
@[simp] theorem takeFault_ckres (e : FaultCode) (s : State) : (takeFault e s).ckres = s.ckres := by
  unfold takeFault; split <;> rfl
@[simp] theorem takeFault_ckkind (e : FaultCode) (s : State) : (takeFault e s).ckkind = s.ckkind := by
  unfold takeFault; split <;> rfl
@[simp] theorem takeFault_ln (e : FaultCode) (s : State) : (takeFault e s).ln = s.ln := by
  unfold takeFault; split <;> rfl
@[simp] theorem takeFault_rclass (e : FaultCode) (s : State) : (takeFault e s).rclass = s.rclass := by
  unfold takeFault; split <;> rfl
@[simp] theorem takeFault_rval (e : FaultCode) (s : State) : (takeFault e s).rval = s.rval := by
  unfold takeFault; split <;> rfl
@[simp] theorem takeFault_sclass (e : FaultCode) (s : State) : (takeFault e s).sclass = s.sclass := by
  unfold takeFault; split <;> rfl
@[simp] theorem takeFault_key (e : FaultCode) (s : State) : (takeFault e s).key = s.key := by
  unfold takeFault; split <;> rfl
@[simp] theorem takeFault_keyv (e : FaultCode) (s : State) : (takeFault e s).keyv = s.keyv := by
  unfold takeFault; split <;> rfl
@[simp] theorem takeFault_kidx (e : FaultCode) (s : State) : (takeFault e s).kidx = s.kidx := by
  unfold takeFault; split <;> rfl
theorem takeFault_err (e : FaultCode) (s : State) :
    (takeFault e s).err = if s.faulted then s.err else some e := by
  unfold takeFault; split <;> rfl
@[simp] theorem takeFault_faulted (e : FaultCode) (s : State) : (takeFault e s).faulted = true := by
  unfold takeFault; split <;> simp [*]
@[simp] theorem takeFault_tx (e : FaultCode) (s : State) : (takeFault e s).tx = s.tx := by
  unfold takeFault; split <;> rfl
theorem takeFault_resp (e : FaultCode) (s : State) :
    (takeFault e s).resp = some { f := true, ret := errCode (if s.faulted then s.err else some e) } := by
  unfold takeFault; split <;> rfl
@[simp] theorem takeFault_inbox (e : FaultCode) (s : State) : (takeFault e s).inbox = s.inbox := by
  unfold takeFault; split <;> rfl

end Sys2Proof.Machine
end

