-- ==== Sys2Proof/Laws/Ops.lean ====
section
/-! SUPPORT. Everything a shared operation can do, said once: the lock, completing, raising a fault, and the CRC fold. -/

namespace Sys2Proof.Machine

/-- Under the lock an operation either is refused or does its own work. -/
theorem unlessLocked_next {s t : State} {body : Result} :
    unlessLocked s body = .next t ↔ (s.faulted = true ∧ t = refuse s) ∨ (s.faulted = false ∧ body = .next t) := by
  unfold unlessLocked
  cases s.faulted <;> simp [eq_comm]

theorem unlessLocked_of_unfaulted {s : State} (h : s.faulted = false) (body : Result) :
    unlessLocked s body = body := by simp [unlessLocked, h]

theorem unlessLocked_of_faulted {s : State} (h : s.faulted = true) (body : Result) :
    unlessLocked s body = .next (refuse s) := by simp [unlessLocked, h]

@[simp] theorem complete_next {ret : Word} {s t : State} : complete ret s = .next t ↔ t = respond ret s := by
  simp [complete, eq_comm]

@[simp] theorem raise_next {e : FaultCode} {s t : State} : raise e s = .next t ↔ t = takeFault e s := by
  simp [raise, eq_comm]

/-- Taking a fault in a block that is not faulted (R282). -/
theorem takeFault_of_unfaulted {s : State} (h : s.faulted = false) (e : FaultCode) :
    takeFault e s = { s with err := some e, faulted := true, resp := some { f := true, ret := errCode (some e) } } := by
  simp [takeFault, h]

/-- A fault is not taken while the block is faulted (R284). -/
theorem takeFault_of_faulted {s : State} (h : s.faulted = true) (e : FaultCode) : takeFault e s = refuse s := by
  simp [takeFault, h]

/-- `Host.Outcome` has three outcomes; a meaning that is next at two states is next at one. -/
theorem next_inj {s t : State} (h : (Host.Outcome.next s : Result) = .next t) : s = t := by
  cases h; rfl

theorem crcBytes_append (c : Word) (s t : List Byte) : crcBytes c (s ++ t) = crcBytes (crcBytes c s) t := by
  induction s generalizing c with
  | nil => rfl
  | cons b s ih => exact ih (crcStep c b)

@[simp] theorem crcBytes_nil (c : Word) : crcBytes c [] = c := rfl

@[simp] theorem crcBytes_cons (c : Word) (b : Byte) (s : List Byte) :
    crcBytes c (b :: s) = crcBytes (crcStep c b) s := rfl

theorem crc32Mpeg2_append_singleton (s : List Byte) (b : Byte) :
    crc32Mpeg2 (s ++ [b]) = crcStep (crc32Mpeg2 s) b := crcBytes_append _ s [b]

theorem crcShifts_add (m n : Nat) (c : Word) : crcShifts (m + n) c = crcShifts n (crcShifts m c) := by
  induction m generalizing c with
  | zero => rw [Nat.zero_add]; rfl
  | succ m ih => rw [Nat.succ_add]; exact ih (crcShift c)

/-- One turn of the CRC loop is linear over GF(2). -/
theorem crcShift_xor (c d : Word) : crcShift (c ^^^ d) = crcShift c ^^^ crcShift d := by
  unfold crcShift
  rw [BitVec.getLsbD_xor]
  cases c.getLsbD 31 <;> cases d.getLsbD 31 <;> simp [BitVec.shiftLeft_xor_distrib]
  · ac_rfl
  · ac_rfl
  · rw [show ∀ a b p : Word, a ^^^ p ^^^ (b ^^^ p) = a ^^^ b ^^^ (p ^^^ p) by intros; ac_rfl]; simp

theorem crcShifts_xor (n : Nat) (c d : Word) : crcShifts n (c ^^^ d) = crcShifts n c ^^^ crcShifts n d := by
  induction n generalizing c d with
  | zero => rfl
  | succ n ih => simp only [crcShifts, crcShift_xor, ih]

/-- The length register of a line whose length fits in 32 bits. -/
theorem lengthWord_toNat {n : Nat} (h : n < 2 ^ 32) : (lengthWord n).toNat = n := by
  rw [lengthWord, if_pos h, BitVec.toNat_ofNat]
  exact Nat.mod_eq_of_lt h

end Sys2Proof.Machine
end

