-- ==== Sys2Proof/Laws/Exec.lean ====
section
/-! SUPPORT. Everything each operation can do, one lemma an operation: when its meaning answers a next state, it was
refused by the lock, or one of the operation's own cases holds. -/

namespace Sys2Proof.Machine

theorem execReset_next {s t : State} :
    execReset s = .next t ↔
      t = respond 0 { State.reset with params := s.params, tx := s.tx, inbox := s.inbox } := complete_next

/-- Registers 0 to 9 have a value, the others have none (R28). -/
theorem registerValue_isSome {s : State} {r : Byte} : (registerValue s r).isSome ↔ r.toNat ≤ 9 := by
  unfold registerValue
  split <;> simp_all
  omega

theorem execRd_next {r : Byte} {s t : State} :
    execRd r s = .next t ↔
      (∃ v, registerValue s r = some v ∧ t = respond v s) ∨ (registerValue s r = none ∧ t = takeFault .errReg s) := by
  unfold execRd
  cases registerValue s r <;> simp

theorem execCrcInit_next {s t : State} :
    execCrcInit s = .next t ↔ (s.faulted = true ∧ t = refuse s) ∨
      (s.faulted = false ∧ t = respond 0 { s with crc := 0xFFFFFFFF }) := by
  simp [execCrcInit, unlessLocked_next]

theorem execCrcByte_next {b : Byte} {s t : State} :
    execCrcByte b s = .next t ↔ (s.faulted = true ∧ t = refuse s) ∨
      (s.faulted = false ∧ t = respond 0 { s with crc := crcStep s.crc b }) := by
  simp [execCrcByte, unlessLocked_next]

theorem execCrcCmp_next {w : Word} {s t : State} :
    execCrcCmp w s = .next t ↔ (s.faulted = true ∧ t = refuse s) ∨
      (s.faulted = false ∧ t = respond (bitWord (s.crc == w)) { s with crcok := s.crc == w }) := by
  simp [execCrcCmp, unlessLocked_next]

theorem execTxStart_next {m : Word} {s t : State} :
    execTxStart m s = .next t ↔ (s.faulted = true ∧ t = refuse s) ∨ (s.faulted = false ∧
      ((s.txst = .payload ∧ t = takeFault .errSeq s) ∨
       (s.txst = .idle ∧ Magic.ofNumber m = none ∧ t = takeFault .errMagic s) ∨
       ∃ k : Magic, s.txst = .idle ∧ m = k.number ∧ t = respond (k.plenCount.setWidth 32)
        (emit (be32 m) { s with txcrc := crc32Mpeg2 (be32 m), txrem := k.plenCount, txst := .payload }))) := by
  rw [execTxStart, unlessLocked_next]
  refine or_congr_right (and_congr_right fun _ => ?_)
  cases h : s.txst with
  | payload => simp
  | idle =>
    cases hm : Magic.ofNumber m with
    | none => simp [Magic.ofNumber_eq_none.1 hm]
    | some k =>
      have hk := Magic.ofNumber_eq_some.1 hm
      subst hk
      simp only [complete_next, reduceCtorEq, false_and, true_and, false_or]
      constructor
      · rintro rfl; exact ⟨k, rfl, rfl⟩
      · rintro ⟨k', hk', rfl⟩
        have := Magic.ofNumber_eq_some.2 hk'
        rw [Magic.ofNumber_number] at this
        cases this; rfl

theorem execTxByte_next {b : Byte} {s t : State} :
    execTxByte b s = .next t ↔ (s.faulted = true ∧ t = refuse s) ∨ (s.faulted = false ∧
      ((s.txst = .idle ∧ t = takeFault .errSeq s) ∨
       (s.txst = .payload ∧ s.txrem ≠ 0 ∧ s.txrem - 1 = 0 ∧ t = respond 0
        (emit (b :: be32 (crcStep s.txcrc b)) { s with txcrc := crcStep s.txcrc b, txrem := 0, txst := .idle })) ∨
       (s.txst = .payload ∧ s.txrem ≠ 0 ∧ s.txrem - 1 ≠ 0 ∧ t = respond ((s.txrem - 1).setWidth 32)
        (emit [b] { s with txcrc := crcStep s.txcrc b, txrem := s.txrem - 1 })))) := by
  rw [execTxByte, unlessLocked_next]
  refine or_congr_right (and_congr_right fun _ => ?_)
  cases h : s.txst with
  | idle => simp
  | payload =>
    split_ifs with h0 h1
    · simp only [h0, ne_eq, not_true_eq_false, false_and, and_false, or_self]
    · simp only [h0, h1, complete_next, ne_eq, not_false_eq_true, not_true_eq_false, true_and, false_and, or_false,
        false_or]
    · simp only [h0, h1, complete_next, ne_eq, not_false_eq_true, true_and, false_and, false_or]

theorem execCkStart_next {s t : State} :
    execCkStart s = .next t ↔ (s.faulted = true ∧ t = refuse s) ∨ (s.faulted = false ∧ t = respond 0 (ckStartState s)) := by
  simp [execCkStart, unlessLocked_next]

theorem execCkByte_next {b : Byte} {s t : State} :
    execCkByte b s = .next t ↔ (s.faulted = true ∧ t = refuse s) ∨ (s.faulted = false ∧
      ((s.ckst = .idle ∧ t = takeFault .errSeq s) ∨
       (s.ckst ≠ .idle ∧ s.ckcnt ≠ 0 ∧ ∃ u, ckByteState b s = some u ∧ t = respond (ckresCode u.ckres) u))) := by
  rw [execCkByte, unlessLocked_next]
  refine or_congr_right (and_congr_right fun _ => ?_)
  cases h : ckByteState b s with
  | none =>
    have hi : s.ckst = .idle := by cases hs : s.ckst <;> simp_all [ckByteState]
    simp [hi]
  | some u =>
    have hi : s.ckst ≠ .idle := by intro hs; simp [ckByteState, hs] at h
    by_cases h0 : s.ckcnt = 0
    · simp only [h0, if_true, reduceCtorEq, ne_eq, not_true_eq_false, false_and, and_false, or_false, hi]
    · simp only [h0, hi, if_false, complete_next, ne_eq, not_false_eq_true, true_and, false_and, false_or,
        Option.some.injEq, exists_eq_left']

theorem execLnClear_next {s t : State} :
    execLnClear s = .next t ↔ (s.faulted = true ∧ t = refuse s) ∨
      (s.faulted = false ∧ t = respond 0 { s with ln := [], rclass := none, rval := 0, sclass := none }) := by
  simp [execLnClear, unlessLocked_next]

theorem execLnByte_next {b : Byte} {s t : State} :
    execLnByte b s = .next t ↔ (s.faulted = true ∧ t = refuse s) ∨ (s.faulted = false ∧
      ((s.ln.length = s.params.lineMax ∧ t = takeFault .errOvf s) ∨
       (s.ln.length ≠ s.params.lineMax ∧
        t = respond (lengthWord (s.ln.length + 1)) { s with ln := s.ln ++ [b] }))) := by
  rw [execLnByte, unlessLocked_next]
  refine or_congr_right (and_congr_right fun _ => ?_)
  by_cases h : s.ln.length = s.params.lineMax <;> simp [h]

theorem execLnResp_next {s t : State} :
    execLnResp s = .next t ↔ (s.faulted = true ∧ t = refuse s) ∨ (s.faulted = false ∧
      t = respond (rclassCode (some (decodeResponse s.ln).cls))
        { s with rclass := some (decodeResponse s.ln).cls, rval := (decodeResponse s.ln).value }) := by
  simp [execLnResp, unlessLocked_next]

theorem execLnStat_next {s t : State} :
    execLnStat s = .next t ↔ (s.faulted = true ∧ t = refuse s) ∨ (s.faulted = false ∧
      t = respond (sclassCode (some (classifyStatusLine s.params.statusPriority s.ln)))
        { s with sclass := some (classifyStatusLine s.params.statusPriority s.ln) }) := by
  simp [execLnStat, unlessLocked_next]

theorem execKeyLoad_next {k : Word} {s t : State} :
    execKeyLoad k s = .next t ↔ (s.faulted = true ∧ t = refuse s) ∨
      (s.faulted = false ∧ t = respond 0 { s with key := k, keyv := true, kidx := 0 }) := by
  simp [execKeyLoad, unlessLocked_next]

theorem execKeyClr_next {s t : State} :
    execKeyClr s = .next t ↔ (s.faulted = true ∧ t = refuse s) ∨
      (s.faulted = false ∧ t = respond 0 { s with key := 0, keyv := false, kidx := 0 }) := by
  simp [execKeyClr, unlessLocked_next]

theorem execXSync_next {s t : State} :
    execXSync s = .next t ↔ (s.faulted = true ∧ t = refuse s) ∨
      (s.faulted = false ∧ t = respond 0 { s with kidx := 0 }) := by
  simp [execXSync, unlessLocked_next]

theorem execXByte_next {b : Byte} {s t : State} :
    execXByte b s = .next t ↔ (s.faulted = true ∧ t = refuse s) ∨ (s.faulted = false ∧
      ((s.keyv = false ∧ t = takeFault .errKey s) ∨
       (s.keyv = true ∧
        t = respond ((b ^^^ keyByte s.key s.kidx.toNat).setWidth 32) { s with kidx := s.kidx + 1 }))) := by
  rw [execXByte, unlessLocked_next]
  refine or_congr_right (and_congr_right fun _ => ?_)
  cases s.keyv <;> simp

theorem execXGrp_next {w : Word} {s t : State} :
    execXGrp w s = .next t ↔ (s.faulted = true ∧ t = refuse s) ∨ (s.faulted = false ∧
      ((s.keyv = false ∧ t = takeFault .errKey s) ∨ (s.keyv = true ∧ t = respond (w ^^^ s.key) s))) := by
  rw [execXGrp, unlessLocked_next]
  refine or_congr_right (and_congr_right fun _ => ?_)
  cases s.keyv <;> simp

end Sys2Proof.Machine
end

