-- ==== Sys2Proof/Laws/Checker.lean ====
section
/-! SUPPORT. The packet checker: what one `CK.BYTE` leaves, and the one induction over the bytes of `CK.FEED`. -/

namespace Sys2Proof.Machine

/-- Two states agree on everything but the packet checker's components and the response. -/
structure SameOutsideChecker (s t : State) : Prop where
  eq : t = { s with ckcrc := t.ckcrc, ckst := t.ckst, ckcnt := t.ckcnt, cksh := t.cksh, ckres := t.ckres,
                    ckkind := t.ckkind, resp := t.resp }

theorem SameOutsideChecker.refl (s : State) : SameOutsideChecker s s := ⟨rfl⟩

theorem SameOutsideChecker.trans {s t u : State} (h : SameOutsideChecker s t) (h' : SameOutsideChecker t u) :
    SameOutsideChecker s u := by
  constructor
  rw [h'.eq, h.eq]

theorem sameOutsideChecker_respond (ret : Word) {s t : State} (h : SameOutsideChecker s t) :
    SameOutsideChecker s (respond ret t) := by
  constructor
  rw [h.eq]
  rfl

theorem sameOutsideChecker_refuse (s : State) : SameOutsideChecker s (refuse s) := ⟨rfl⟩

/-- One received byte changes the checker's components only (R30). -/
theorem ckByteState_outside {b : Byte} {s t : State} (h : ckByteState b s = some t) : SameOutsideChecker s t := by
  unfold ckByteState at h
  cases hs : s.ckst with
  | idle => rw [hs] at h; cases h
  | magic =>
    rw [hs] at h; injection h with h; subst h; unfold ckMagicByte; split_ifs
    · split <;> exact ⟨rfl⟩
    · exact ⟨rfl⟩
  | payload => rw [hs] at h; injection h with h; subst h; unfold ckPayloadByte; split_ifs <;> exact ⟨rfl⟩
  | trailer => rw [hs] at h; injection h with h; subst h; unfold ckTrailerByte; split_ifs <;> exact ⟨rfl⟩

/-- One byte of a feed, the last or not. -/
theorem ckFeedBytes_cons (b : Byte) (rest : List Byte) (s : State) :
    ckFeedBytes (b :: rest) s =
      match execCkByte b s with
      | .next t => if returnedZero t then ckFeedBytes rest t else .next t
      | .fault r => .fault r
      | .refused r => .refused r := by
  cases rest with
  | nil =>
    unfold ckFeedBytes
    cases execCkByte b s <;> simp
  | cons c rest => rfl

/-- The induction over the bytes of a feed: `P` holds while the feed goes on, `Q` of whatever it ends in. -/
theorem ckFeedBytes_induct {P Q : State → Prop} (stop : ∀ s, P s → Q s)
    (byte : ∀ b s t, P s → execCkByte b s = .next t → Q t ∧ (returnedZero t = true → P t))
    {bytes : List Byte} {s t : State} (hs : P s) (h : ckFeedBytes bytes s = .next t) : Q t := by
  induction bytes generalizing s with
  | nil => exact next_inj h ▸ stop s hs
  | cons b rest ih =>
    rw [ckFeedBytes_cons] at h
    cases hb : execCkByte b s with
    | next u =>
      rw [hb] at h
      obtain ⟨hq, hp⟩ := byte b s u hs hb
      cases hz : returnedZero u with
      | false => simp only [hz, Bool.false_eq_true, if_false] at h; cases h; exact hq
      | true => simp only [hz, if_true] at h; exact ih (hp hz) h
    | fault r => rw [hb] at h; cases h
    | refused r => rw [hb] at h; cases h

/-- A whole feed: the lock refuses it, or it goes on from the state `CK.START` leaves (R245). -/
theorem ckFeed_next {bytes : List Byte} {s t : State} :
    ckFeed bytes s = .next t ↔ (s.faulted = true ∧ t = refuse s) ∨ (s.faulted = false ∧
      ckFeedBytes bytes (respond 0 (ckStartState s)) = .next t) := by
  unfold ckFeed execCkStart
  cases h : s.faulted with
  | true =>
    have hz : returnedZero (refuse s) = false := by simp [returnedZero, refuse]
    simp [unlessLocked_of_faulted h, hz, eq_comm]
  | false =>
    have hz : returnedZero (respond 0 (ckStartState s)) = true := by simp [returnedZero, respond]
    simp only [unlessLocked_of_unfaulted h, complete, hz, if_true, true_and, Bool.false_eq_true, false_and, false_or]

/-- A verdict code is zero only with no verdict (R25). -/
theorem ckresCode_eq_zero {r : Option CkVerdict} : ckresCode r = 0 ↔ r = none := by
  rcases r with _ | r
  · simp [ckresCode]
  · cases r <;> simp [ckresCode]

/-- While a feed goes on, the block is not faulted, a check is in progress with bytes expected, and no verdict is given
(R23, R174). -/
structure Checking (s : State) : Prop where
  unfaulted : s.faulted = false
  open' : s.ckst ≠ .idle
  expected : s.ckcnt ≠ 0
  noVerdict : s.ckres = none

theorem checking_ckStartState {s : State} (h : s.faulted = false) (ret : Word) :
    Checking (respond ret (ckStartState s)) :=
  ⟨h, by simp [ckStartState], by simp [ckStartState], rfl⟩

/-- A feed goes on only while there is no verdict. -/
theorem noVerdict_of_returnedZero {u : State} (h : returnedZero (respond (ckresCode u.ckres) u) = true) :
    u.ckres = none := by
  have h' : ckresCode u.ckres = 0 := by simpa [returnedZero] using h
  exact ckresCode_eq_zero.1 h'

/-- One byte of a check in progress: it answers a next state that is not faulted and whose response is `CKRES`, and the
check is still in progress unless a verdict was given. -/
theorem execCkByte_checking (b : Byte) {s : State} (h : Checking s) :
    ∃ u, ckByteState b s = some u ∧ execCkByte b s = .next (respond (ckresCode u.ckres) u) ∧ u.faulted = false ∧
      (u.ckres = none → Checking (respond (ckresCode u.ckres) u)) := by
  obtain ⟨hf, ho, he, hv⟩ := h
  have key : ∃ u, ckByteState b s = some u ∧ u.faulted = false ∧ (u.ckres = none → u.ckst ≠ .idle ∧ u.ckcnt ≠ 0) := by
    unfold ckByteState
    cases hst : s.ckst with
    | idle => exact absurd hst ho
    | magic =>
      refine ⟨_, rfl, ?_⟩
      unfold ckMagicByte
      split_ifs with h1
      · cases hm : Magic.ofNumber (shiftIn s.cksh b) with
        | none => simp [hf]
        | some k => cases k <;> simp [hf, Magic.plenCount, Magic.plen]
      · exact ⟨hf, fun _ => ⟨by simp [hst], h1⟩⟩
    | payload =>
      refine ⟨_, rfl, ?_⟩
      unfold ckPayloadByte
      split_ifs with h1
      · simp [hf]
      · exact ⟨hf, fun _ => ⟨by simp [hst], h1⟩⟩
    | trailer =>
      refine ⟨_, rfl, ?_⟩
      unfold ckTrailerByte
      split_ifs with h1 h2
      · simp [hf]
      · simp [hf]
      · exact ⟨hf, fun _ => ⟨by simp [hst], h1⟩⟩
  obtain ⟨u, hu, huf, hun⟩ := key
  refine ⟨u, hu, execCkByte_next.2 (.inr ⟨hf, .inr ⟨ho, he, u, hu, rfl⟩⟩), huf, fun hn => ?_⟩
  exact ⟨huf, (hun hn).1, (hun hn).2, hn⟩

/-- A feed of a check in progress always answers a next state, with no fault (R175). -/
theorem ckFeedBytes_checking (bytes : List Byte) {s : State} (h : Checking s) :
    ∃ t, ckFeedBytes bytes s = .next t ∧ t.faulted = false := by
  induction bytes generalizing s with
  | nil => exact ⟨s, rfl, h.unfaulted⟩
  | cons b rest ih =>
    obtain ⟨u, -, hb, hf, hc⟩ := execCkByte_checking b h
    simp only [ckFeedBytes_cons, hb]
    cases hz : returnedZero (respond (ckresCode u.ckres) u) with
    | false => exact ⟨_, rfl, hf⟩
    | true =>
      simp only [if_true]
      exact ih (hc (noVerdict_of_returnedZero hz))

/-- A feed changes nothing outside the checker and the response. -/
theorem ckFeed_outside {bytes : List Byte} {s t : State} (h : ckFeed bytes s = .next t) : SameOutsideChecker s t := by
  rcases ckFeed_next.1 h with ⟨-, rfl⟩ | ⟨hf, h⟩
  · exact sameOutsideChecker_refuse s
  · refine ckFeedBytes_induct (P := fun u => SameOutsideChecker s u ∧ Checking u) (Q := SameOutsideChecker s)
      (fun _ hu => hu.1) (fun b u v hu hv => ?_) ⟨⟨rfl⟩, checking_ckStartState hf 0⟩ h
    obtain ⟨w, hw, hb, -, hc⟩ := execCkByte_checking b hu.2
    have hv' := next_inj (hv.symm.trans hb)
    have hout := sameOutsideChecker_respond (ckresCode w.ckres) (hu.1.trans (ckByteState_outside hw))
    rw [← hv'] at hout
    refine ⟨hout, fun hz => ⟨hout, ?_⟩⟩
    rw [hv'] at hz ⊢
    exact hc (noVerdict_of_returnedZero hz)

/-- Received bytes handed to a block always end in a next state: the lock's refusal, or no fault at all (R175). -/
theorem ckFeed_answers (bytes : List Byte) (s : State) : ∃ t, ckFeed bytes s = .next t ∧ t.faulted = s.faulted := by
  cases hf : s.faulted with
  | true => exact ⟨refuse s, ckFeed_next.2 (.inl ⟨hf, rfl⟩), hf⟩
  | false =>
    obtain ⟨t, ht, htf⟩ := ckFeedBytes_checking bytes (checking_ckStartState hf 0)
    exact ⟨t, ckFeed_next.2 (.inr ⟨hf, ht⟩), htf⟩

end Sys2Proof.Machine
end

