-- ==== Sys2Proof/Laws/Decode.lean ====
section
/-! SUPPORT. The two parts of a command word, and the rows of the opcode table it falls in. -/

namespace Sys2Proof

@[simp] theorem opOf_commandWord (op : Byte) (imm : Word) : opOf (commandWord op imm) = op := by
  ext i hi
  have h : 32 + i < 40 := by omega
  simp [opOf, commandWord, hi, h]

@[simp] theorem immOf_commandWord (op : Byte) (imm : Word) : immOf (commandWord op imm) = imm := by
  ext i hi
  have h : i < 40 := by omega
  simp [immOf, commandWord, hi, h]

theorem commandWord_opOf_immOf (cmd : CommandWord) : commandWord (opOf cmd) (immOf cmd) = cmd := by
  ext i hi
  rcases Nat.lt_or_ge i 32 with h | h
  · simp [commandWord, opOf, immOf, h, BitVec.getLsbD_eq_getElem hi]
  · have h8 : i - 32 < 8 := by omega
    have hs : 32 + (i - 32) = i := by omega
    simp [commandWord, opOf, immOf, h, h8, hs, Nat.not_lt.2 h, BitVec.getLsbD_eq_getElem hi]

/-- Two command words are the same when their opcodes and their immediates are. -/
theorem commandWord_ext {x y : CommandWord} : x = y ↔ opOf x = opOf y ∧ immOf x = immOf y :=
  ⟨fun h => by simp [h], fun ⟨h, h'⟩ => by rw [← commandWord_opOf_immOf x, h, h', commandWord_opOf_immOf]⟩

theorem OpcodeRow.hits_eq (row : OpcodeRow) (cmd : CommandWord) :
    row.hits cmd = (immOf cmd &&& immOf row.mask == immOf row.bits && opOf cmd &&& opOf row.mask == opOf row.bits) := by
  have h : ∀ a b : CommandWord, opOf (a &&& b) = opOf a &&& opOf b ∧ immOf (a &&& b) = immOf a &&& immOf b := by
    intro a b
    constructor <;> ext i hi <;> simp [opOf, immOf]
  rw [OpcodeRow.hits, Bool.eq_iff_iff]
  simp only [beq_iff_eq, Bool.and_eq_true, commandWord_ext, h, and_comm]

/-- The rows a command word falls in: first by the opcode, then by the immediate. -/
theorem opcodeRows_hits (op : Byte) (imm : Word) :
    opcodeRows.filter (·.hits (commandWord op imm)) =
      (opcodeRows.filter fun row => op &&& opOf row.mask == opOf row.bits).filter fun row =>
        imm &&& immOf row.mask == immOf row.bits := by
  rw [List.filter_filter]
  refine List.filter_congr fun row _ => ?_
  rw [OpcodeRow.hits_eq, opOf_commandWord, immOf_commandWord]

theorem byteImm_and (b : Byte) : byteImm b &&& 0xFFFFFF00 = 0 := by
  ext i hi
  simp [byteImm]
  interval_cases i <;> simp

/-- An immediate's upper 24 bits are zero exactly when it is a number below 256 (R102). -/
theorem highBits_zero_iff (imm : Word) : imm.extractLsb' 8 24 = 0 ↔ imm.toNat < 256 := by
  rw [← BitVec.toNat_inj]
  simp only [BitVec.extractLsb'_toNat, Nat.shiftRight_eq_div_pow]
  have := imm.isLt
  constructor
  · intro h
    have h' : imm.toNat / 2 ^ 8 % 2 ^ 24 = 0 := h
    omega
  · intro h
    have h' : imm.toNat / 2 ^ 8 % 2 ^ 24 = 0 := by omega
    exact h'

@[simp] theorem byteImm_toNat (b : Byte) : (byteImm b).toNat = b.toNat := by
  have := b.isLt
  simp [byteImm]
  omega

/-- The low byte of an immediate as a number. -/
theorem lowByte_eq (imm : Word) : imm.extractLsb' 0 8 = BitVec.ofNat 8 imm.toNat := by
  apply BitVec.eq_of_toNat_eq
  simp

end Sys2Proof
end

