-- ==== Sys2Proof/Laws/PerInstr.lean ====
section
/-! SUPPORT. Per instruction: its encoding lies in its own row of spec/opcode_table.json and in no other (a command word
by mask and match, a wire packet by its first four bytes), with every operand at every value. -/

namespace Sys2Proof

/-- The row of spec/opcode_table.json an instruction belongs to. -/
def Laws.TableRow.mnemonic : Instr → String
  | .reset => "RESET"
  | .rd _ => "RD"
  | .crcInit => "CRC.INIT"
  | .crcByte _ => "CRC.BYTE"
  | .crcCmp _ => "CRC.CMP"
  | .txStart _ => "TX.START"
  | .txByte _ => "TX.BYTE"
  | .ckStart => "CK.START"
  | .ckByte _ => "CK.BYTE"
  | .lnClear => "LN.CLEAR"
  | .lnByte _ => "LN.BYTE"
  | .lnResp => "LN.RESP"
  | .lnStat => "LN.STAT"
  | .keyLoad _ => "KEY.LOAD"
  | .keyClr => "KEY.CLR"
  | .xSync => "X.SYNC"
  | .xByte _ => "X.BYTE"
  | .xGrp _ => "X.GRP"
  | .pktComd _ _ => "PKT.COMD"
  | .pktHead _ _ => "PKT.HEAD"
  | .pktData _ _ => "PKT.DATA"
  | .pktPass _ _ _ _ _ => "PKT.PASS"
  | .pktResp _ _ => "PKT.RESP"

/-- The rows an input falls in: command words by the 18 command rows, packets by the match value of their row. -/
def Laws.TableRow.rowsOf : Input → List String
  | .command cmd => (opcodeRows.filter (·.hits cmd)).map (·.mnemonic)
  | .packet bytes =>
    ([("PKT.COMD", 0x434F4D44), ("PKT.HEAD", 0x48454144), ("PKT.DATA", 0x44415441), ("PKT.PASS", 0x50415353),
      ("PKT.RESP", 0x52455350)].filter fun row => be32 row.2 == bytes.take 4).map (·.1)

/-- An instruction's encoding falls in its own row and in no other. -/
def Laws.TableRow.Statement (i : Instr) : Prop :=
  Laws.TableRow.rowsOf (encode i) = [Laws.TableRow.mnemonic i]

theorem Laws.TableRow.rowsOf_command (op : Byte) (imm : Word) (row : OpcodeRow)
    (h : (opcodeRows.filter fun row => op &&& opOf row.mask == opOf row.bits) = [row])
    (h' : imm &&& immOf row.mask = immOf row.bits) :
    Laws.TableRow.rowsOf (.command (commandWord op imm)) = [row.mnemonic] := by
  simp [Laws.TableRow.rowsOf, opcodeRows_hits, h, h']

theorem Laws.TableRow.rowsOf_packet (k : Magic) (p : List Byte) (crc : Word) :
    Laws.TableRow.rowsOf (.packet (packetBytes k p crc)) =
      [match k with
        | .comd => "PKT.COMD" | .head => "PKT.HEAD" | .data => "PKT.DATA" | .pass => "PKT.PASS" | .resp => "PKT.RESP"] := by
  have h : (packetBytes k p crc).take 4 = be32 k.number := by simp [packetBytes, be32]
  rw [Laws.TableRow.rowsOf, h]
  cases k <;> decide

theorem Laws.TableRow.reset : Laws.TableRow.Statement .reset :=
  Laws.TableRow.rowsOf_command 0x01 0 ⟨"RESET", 0xFFFFFFFFFF, 0x0100000000⟩ (by decide) (by decide)

theorem Laws.TableRow.rd (r : Byte) : Laws.TableRow.Statement (.rd r) :=
  Laws.TableRow.rowsOf_command 0x02 (byteImm r) ⟨"RD", 0xFFFFFFFF00, 0x0200000000⟩ (by decide) (byteImm_and r)

theorem Laws.TableRow.crcInit : Laws.TableRow.Statement .crcInit :=
  Laws.TableRow.rowsOf_command 0x10 0 ⟨"CRC.INIT", 0xFFFFFFFFFF, 0x1000000000⟩ (by decide) (by decide)

theorem Laws.TableRow.crcByte (b : Byte) : Laws.TableRow.Statement (.crcByte b) :=
  Laws.TableRow.rowsOf_command 0x11 (byteImm b) ⟨"CRC.BYTE", 0xFFFFFFFF00, 0x1100000000⟩ (by decide) (byteImm_and b)

theorem Laws.TableRow.crcCmp (w : Word) : Laws.TableRow.Statement (.crcCmp w) :=
  Laws.TableRow.rowsOf_command 0x12 w ⟨"CRC.CMP", 0xFF00000000, 0x1200000000⟩ (by decide) BitVec.and_zero

theorem Laws.TableRow.txStart (m : Word) : Laws.TableRow.Statement (.txStart m) :=
  Laws.TableRow.rowsOf_command 0x20 m ⟨"TX.START", 0xFF00000000, 0x2000000000⟩ (by decide) BitVec.and_zero

theorem Laws.TableRow.txByte (b : Byte) : Laws.TableRow.Statement (.txByte b) :=
  Laws.TableRow.rowsOf_command 0x21 (byteImm b) ⟨"TX.BYTE", 0xFFFFFFFF00, 0x2100000000⟩ (by decide) (byteImm_and b)

theorem Laws.TableRow.ckStart : Laws.TableRow.Statement .ckStart :=
  Laws.TableRow.rowsOf_command 0x30 0 ⟨"CK.START", 0xFFFFFFFFFF, 0x3000000000⟩ (by decide) (by decide)

theorem Laws.TableRow.ckByte (b : Byte) : Laws.TableRow.Statement (.ckByte b) :=
  Laws.TableRow.rowsOf_command 0x31 (byteImm b) ⟨"CK.BYTE", 0xFFFFFFFF00, 0x3100000000⟩ (by decide) (byteImm_and b)

theorem Laws.TableRow.lnClear : Laws.TableRow.Statement .lnClear :=
  Laws.TableRow.rowsOf_command 0x40 0 ⟨"LN.CLEAR", 0xFFFFFFFFFF, 0x4000000000⟩ (by decide) (by decide)

theorem Laws.TableRow.lnByte (b : Byte) : Laws.TableRow.Statement (.lnByte b) :=
  Laws.TableRow.rowsOf_command 0x41 (byteImm b) ⟨"LN.BYTE", 0xFFFFFFFF00, 0x4100000000⟩ (by decide) (byteImm_and b)

theorem Laws.TableRow.lnResp : Laws.TableRow.Statement .lnResp :=
  Laws.TableRow.rowsOf_command 0x42 0 ⟨"LN.RESP", 0xFFFFFFFFFF, 0x4200000000⟩ (by decide) (by decide)

theorem Laws.TableRow.lnStat : Laws.TableRow.Statement .lnStat :=
  Laws.TableRow.rowsOf_command 0x43 0 ⟨"LN.STAT", 0xFFFFFFFFFF, 0x4300000000⟩ (by decide) (by decide)

theorem Laws.TableRow.keyLoad (k : Word) : Laws.TableRow.Statement (.keyLoad k) :=
  Laws.TableRow.rowsOf_command 0x50 k ⟨"KEY.LOAD", 0xFF00000000, 0x5000000000⟩ (by decide) BitVec.and_zero

theorem Laws.TableRow.keyClr : Laws.TableRow.Statement .keyClr :=
  Laws.TableRow.rowsOf_command 0x51 0 ⟨"KEY.CLR", 0xFFFFFFFFFF, 0x5100000000⟩ (by decide) (by decide)

theorem Laws.TableRow.xSync : Laws.TableRow.Statement .xSync :=
  Laws.TableRow.rowsOf_command 0x52 0 ⟨"X.SYNC", 0xFFFFFFFFFF, 0x5200000000⟩ (by decide) (by decide)

theorem Laws.TableRow.xByte (b : Byte) : Laws.TableRow.Statement (.xByte b) :=
  Laws.TableRow.rowsOf_command 0x53 (byteImm b) ⟨"X.BYTE", 0xFFFFFFFF00, 0x5300000000⟩ (by decide) (byteImm_and b)

theorem Laws.TableRow.xGrp (w : Word) : Laws.TableRow.Statement (.xGrp w) :=
  Laws.TableRow.rowsOf_command 0x54 w ⟨"X.GRP", 0xFF00000000, 0x5400000000⟩ (by decide) BitVec.and_zero

theorem Laws.TableRow.pktComd (code crc : Word) : Laws.TableRow.Statement (.pktComd code crc) :=
  Laws.TableRow.rowsOf_packet .comd (be32 code) crc

theorem Laws.TableRow.pktHead (size crc : Word) : Laws.TableRow.Statement (.pktHead size crc) :=
  Laws.TableRow.rowsOf_packet .head (be32 size) crc

theorem Laws.TableRow.pktData (block : List Byte) (crc : Word) : Laws.TableRow.Statement (.pktData block crc) :=
  Laws.TableRow.rowsOf_packet .data block crc

theorem Laws.TableRow.pktPass (p0 p1 p2 p3 : Byte) (crc : Word) :
    Laws.TableRow.Statement (.pktPass p0 p1 p2 p3 crc) :=
  Laws.TableRow.rowsOf_packet .pass [p0, p1, p2, p3] crc

theorem Laws.TableRow.pktResp (v crc : Word) : Laws.TableRow.Statement (.pktResp v crc) :=
  Laws.TableRow.rowsOf_packet .resp (le32 v) crc

end Sys2Proof
end

