-- ==== Sys2Proof/Laws/Step.lean ====
section
/-! SUPPORT. Everything a step can do, said once: it waits, runs a decoded instruction, faults on an illegal command word,
or feeds received bytes to the checker. -/

namespace Sys2Proof.Machine

theorem runInput_of_ok {x : Input} {i : Instr} (h : decode x = .ok i) (s : State) : runInput x s = exec i s := by
  simp [runInput, h]

theorem runInput_of_error {x : Input} {e : DecodeError} (h : decode x = .error e) (s : State) :
    runInput x s = runUndecoded x s := by
  simp [runInput, h]

theorem runInput_cases {x : Input} {s t : State} (h : runInput x s = .next t) :
    (∃ i, decode x = .ok i ∧ exec i s = .next t) ∨
    (∃ cmd e, x = .command cmd ∧ decodeCommand cmd = .error e ∧ t = takeFault .errOp s) ∨
    (∃ bytes e, x = .packet bytes ∧ decodePacket bytes = .error e ∧ ckFeed bytes s = .next t) := by
  cases hd : decode x with
  | ok i => exact .inl ⟨i, rfl, by rw [← runInput_of_ok hd]; exact h⟩
  | error e =>
    rw [runInput_of_error hd] at h
    cases x with
    | command cmd => exact .inr (.inl ⟨cmd, e, rfl, hd, raise_next.1 h⟩)
    | packet bytes => exact .inr (.inr ⟨bytes, e, rfl, hd, h⟩)

theorem step_of_empty {s : State} (h : s.inbox = []) : step s = .next s := by
  simp [step, takeInput, h]

theorem step_of_cons {s : State} {x : Input} {rest : List Input} (h : s.inbox = x :: rest) :
    step s = runInput x { s with inbox := rest } := by
  simp [step, takeInput, h]

theorem step_cases {s t : State} (h : step s = .next t) :
    (s.inbox = [] ∧ t = s) ∨
      ∃ x rest, s.inbox = x :: rest ∧ runInput x { s with inbox := rest } = .next t := by
  cases hi : s.inbox with
  | nil => exact .inl ⟨rfl, (next_inj ((step_of_empty hi).symm.trans h)).symm⟩
  | cons x rest => exact .inr ⟨x, rest, rfl, by rw [← step_of_cons hi]; exact h⟩

end Sys2Proof.Machine
end

