-- ==== Sys2Proof/Tests/Slice0.lean ====
section
/-! SUPPORT. The model's own tests. Expected results are those of spec/95_test_vectors.md and of the worked examples of
spec/30_encoding.md R106 and the operation rules, or are written out from the encoding tables of R91 to R101. At the end:
for every statement with hypotheses, a state and operands that meet them all. -/

namespace Sys2Proof.Machine

/-! ### Helpers -/

/-- The next state an answer holds, if it is one. -/
def stateOf : Result → Option State
  | .next t => some t
  | _ => none

/-- What a test looks at: one field of the next state. -/
def seen {α : Type} (r : Result) (look : State → α) : Option α := (stateOf r).map look

/-- The reset state with one input presented. -/
def given (x : Input) : State := { State.reset with inbox := [x] }

/-- A faulted state: R283's `ERR_SEQ` taken from reset. -/
def locked : State := { State.reset with err := some .errSeq, faulted := true }

/-- A `COMD` packet open with its payload `00 00 00` sent, one byte owed (95_test_vectors.md P1). -/
def open1 : State :=
  { State.reset with txst := .payload, txrem := 1, txcrc := 0x0F54EE80, tx := [0x43, 0x4F, 0x4D, 0x44, 0, 0, 0] }

/-- A `DATA` packet just opened: 1024 bytes owed. -/
def openData : State :=
  { State.reset with txst := .payload, txrem := 1024, txcrc := 0x3965375A, tx := [0x44, 0x41, 0x54, 0x41] }

/-- The checker in a phase with a count. -/
def checking (phase : CkState) (n : Count) (sh crc : Word) : State :=
  { State.reset with ckst := phase, ckcnt := n, cksh := sh, ckcrc := crc }

/-- A block that holds a key and stands at a stream position. -/
def keyed (k : Word) (i : BitVec 2) : State := { State.reset with key := k, keyv := true, kidx := i }

/-- A block that holds a line. -/
def lined (line : List Byte) : State := { State.reset with ln := line }

/-! ### Well-formedness, reset -/

theorem test_wellformed_refuses_short_block : (Instr.pktData [0x00, 0x01] 0).wellFormed = false := by decide

theorem test_wellformed_accepts_full_block : (Instr.pktData (List.replicate 1024 0xFF) 0).wellFormed = true := by
  decide +kernel

/-- 95 section 3.6: `RD 0` to `RD 9` from reset. -/
theorem test_reset_registers :
    [0, 1, 2, 3, 4, 5, 6, 7, 8, 9].map (registerValue State.reset) =
      [some 0, some 0, some 0xFFFFFFFF, some 0xFFFFFFFF, some 0, some 0xFFFFFFFF, some 0, some 0, some 0, some 0] := by
  decide

/-! ### Decoding: words written out from R101 and R102, packets from R94 to R98 -/

theorem test_decode_reset : decodeCommand 0x0100000000 = .ok .reset := by decide
theorem test_decode_rd : decodeCommand 0x0200000002 = .ok (.rd 2) := by decide
theorem test_decode_crcInit : decodeCommand 0x1000000000 = .ok .crcInit := by decide
theorem test_decode_crcByte : decodeCommand 0x1100000031 = .ok (.crcByte 0x31) := by decide
theorem test_decode_crcCmp : decodeCommand 0x120376E6E7 = .ok (.crcCmp 0x0376E6E7) := by decide
theorem test_decode_txStart : decodeCommand 0x20434F4D44 = .ok (.txStart 0x434F4D44) := by decide
theorem test_decode_txByte : decodeCommand 0x2100000001 = .ok (.txByte 0x01) := by decide
theorem test_decode_ckStart : decodeCommand 0x3000000000 = .ok .ckStart := by decide
theorem test_decode_ckByte : decodeCommand 0x3100000048 = .ok (.ckByte 0x48) := by decide
theorem test_decode_lnClear : decodeCommand 0x4000000000 = .ok .lnClear := by decide
theorem test_decode_lnByte : decodeCommand 0x410000000D = .ok (.lnByte 0x0D) := by decide
theorem test_decode_lnResp : decodeCommand 0x4200000000 = .ok .lnResp := by decide
theorem test_decode_lnStat : decodeCommand 0x4300000000 = .ok .lnStat := by decide
theorem test_decode_keyLoad : decodeCommand 0x505E6F7081 = .ok (.keyLoad 0x5E6F7081) := by decide
theorem test_decode_keyClr : decodeCommand 0x5100000000 = .ok .keyClr := by decide
theorem test_decode_xSync : decodeCommand 0x5200000000 = .ok .xSync := by decide
theorem test_decode_xByte : decodeCommand 0x5300000054 = .ok (.xByte 0x54) := by decide
theorem test_decode_xGrp : decodeCommand 0x5404030201 = .ok (.xGrp 0x04030201) := by decide

/-- R94: code -1, `43 4F 4D 44 FF FF FF FF AB A5 E0 C6`. -/
theorem test_decode_pktComd :
    decodePacket [0x43, 0x4F, 0x4D, 0x44, 0xFF, 0xFF, 0xFF, 0xFF, 0xAB, 0xA5, 0xE0, 0xC6] =
      .ok (.pktComd 0xFFFFFFFF 0xABA5E0C6) := by decide

/-- R95: size 2500. -/
theorem test_decode_pktHead :
    decodePacket [0x48, 0x45, 0x41, 0x44, 0x00, 0x00, 0x09, 0xC4, 0x1A, 0x67, 0x14, 0xF2] =
      .ok (.pktHead 2500 0x1A6714F2) := by decide

/-- R96: a block of `FF`, trailer `44 E5 39 16`. -/
theorem test_decode_pktData :
    decodePacket ([0x44, 0x41, 0x54, 0x41] ++ List.replicate 1024 0xFF ++ [0x44, 0xE5, 0x39, 0x16]) =
      .ok (.pktData (List.replicate 1024 0xFF) 0x44E53916) := by decide +kernel

/-- R97: payload `80 72 6C 5A`. -/
theorem test_decode_pktPass :
    decodePacket [0x50, 0x41, 0x53, 0x53, 0x80, 0x72, 0x6C, 0x5A, 0xB8, 0x27, 0x1A, 0xE3] =
      .ok (.pktPass 0x80 0x72 0x6C 0x5A 0xB8271AE3) := by decide

/-- R98: the value is little-endian, the trailer big-endian. -/
theorem test_decode_pktResp :
    decodePacket [0x52, 0x45, 0x53, 0x50, 0x78, 0x56, 0x34, 0x12, 0x8B, 0xAB, 0xE3, 0x3D] =
      .ok (.pktResp 0x12345678 0x8BABE33D) := by decide

/-- R92: `TEST`, `ACKW`, `NACK` are no packet magics; nor is `comd` (95 section 3.3). -/
theorem test_no_packet_magic :
    [0x54455354, 0x41434B57, 0x4E41434B, 0x636F6D64, 0x00000000].map Magic.ofNumber =
      [none, none, none, none, none] := by decide

/-- 95 section 3.6: the illegal words of reserved opcodes. -/
theorem test_illegal_reserved_op :
    [0x0000000000, 0x0300000000, 0x0F00000000, 0x1300000000, 0x2200000000, 0x3200000000, 0x4400000000, 0x5500000000,
      0x6000000000, 0xFFFFFFFFFF].map decodeCommand = List.replicate 10 (.error .reservedOp) := by decide

/-- 95 section 3.6: class N with a non-zero immediate. -/
theorem test_illegal_class_n :
    [0x0100000001, 0x1080000000, 0x3000000100, 0x4200000001].map decodeCommand =
      List.replicate 4 (.error .immediateNotZero) := by decide

/-- 95 section 3.6: classes B and R with a bit above bit 7. -/
theorem test_illegal_class_b :
    [0x0200000100, 0x1100000100, 0x210000FF00, 0x3101000000, 0x4100010000, 0x5300000101].map decodeCommand =
      List.replicate 6 (.error .highBitsNotZero) := by decide

/-- spec/opcode_table.json's numbering: the row `RD` with register number 5. -/
theorem test_table_word : decodeTableWord 40 0x0200000005 = some (.rd 5) := by decide

/-- The row `PKT.RESP` by its 32 match bits alone: the words above them are zero. -/
theorem test_table_packet : decodeTableWord 32 0x52455350 = some (.pktResp 0 0) := by decide

/-- A word placed after reset is what the next step runs: `TX.START 'DATA'` (95 section 3.2). -/
theorem test_fetch_word :
    seen (step (State.reset.withFetchWord 40 0x2044415441)) (fun t => (t.resp, t.txcrc, t.tx, t.inbox)) =
      some (answered 1024, 0x3965375A, [0x44, 0x41, 0x54, 0x41], []) := by decide +kernel

/-! ### System operations, faults and the lock -/

/-- R231: after a fault, `RESET` then `ERR` 0 and `STATUS` 0. -/
theorem test_reset : seen (execReset locked) (fun t => (t.err, statusWord t, t.resp)) = some (none, 0, answered 0) := by
  decide

/-- R232: `RD 2` from reset. -/
theorem test_rd : seen (execRd 2 State.reset) (·.resp) = some (answered 0xFFFFFFFF) := by decide

/-- R29's worked example. -/
theorem test_status_word :
    statusWord { State.reset with keyv := true, kidx := 2, rclass := some .opaqueValue, sclass := some .ack } =
      0x00016014 := by decide

/-- P8 e: `RD 10` faults with `ERR_REG`. -/
theorem test_rd_reserved :
    seen (execRd 10 State.reset) (fun t => (t.resp, t.err, statusWord t)) =
      some (some ⟨true, 6⟩, some .errReg, 1) := by decide

/-- P8 c: `RESET` with `imm` 1 is illegal and faults with `ERR_OP`. -/
theorem test_illegal_reset_faults :
    seen (step (given (.command 0x0100000001))) (fun t => (t.resp, t.err)) = some (some ⟨true, 1⟩, some .errOp) := by
  decide

/-- 95 section 3.6, the lock: an illegal word is refused with the first code. -/
theorem test_lock_refuses_illegal_word :
    seen (runInput (.command 0x0000000000) locked) (fun t => (t.resp, t.err)) =
      some (some ⟨true, 2⟩, some .errSeq) := by decide

/-- 95 section 3.6, the lock: an `RD` that would fault is refused with the first code. -/
theorem test_lock_refuses_reserved_rd :
    seen (execRd 10 locked) (fun t => (t.resp, t.err)) = some (some ⟨true, 2⟩, some .errSeq) := by decide

/-! ### CRC -/

/-- R130's worked examples. -/
theorem test_crc_step :
    (crcStep 0 0x01, crcStep 0 0x80, crcStep 0xFFFFFFFF 0xFF, crcStep 0xFFFFFFFF 0x00) =
      (0x04C11DB7, 0x690CE0EE, 0xFFFFFF00, 0x4E08BFB4) := by decide +kernel

/-- R131: the check value of "123456789". -/
theorem test_crc_check_value :
    crc32Mpeg2 [0x31, 0x32, 0x33, 0x34, 0x35, 0x36, 0x37, 0x38, 0x39] = 0x0376E6E7 := by decide +kernel

/-- R133's example; `CRCOK` keeps its value. -/
theorem test_crcInit :
    seen (execCrcInit { State.reset with crc := 0x9B73448C, crcok := true }) (fun t => (t.crc, t.crcok)) =
      some (0xFFFFFFFF, true) := by decide

/-- 95 section 3.1: one `CRC.BYTE` straight after reset. -/
theorem test_crcByte : seen (execCrcByte 0x61 State.reset) (·.crc) = some 0xE66C6494 := by decide +kernel

/-- 95 section 3.1: equal, and not equal. -/
theorem test_crcCmp_equal :
    seen (execCrcCmp 0x0376E6E7 { State.reset with crc := 0x0376E6E7 }) (fun t => (t.resp, t.crcok, t.crc)) =
      some (answered 1, true, 0x0376E6E7) := by decide

theorem test_crcCmp_differs :
    seen (execCrcCmp 0xCBF43926 { State.reset with crc := 0x0376E6E7, crcok := true }) (fun t => (t.resp, t.crcok)) =
      some (answered 0, false) := by decide

/-! ### Transmit framer -/

/-- R152's example. -/
theorem test_txStart :
    seen (execTxStart 0x434F4D44 State.reset) (fun t => (t.resp, t.tx, t.txcrc, statusWord t)) =
      some (answered 4, [0x43, 0x4F, 0x4D, 0x44], 0x703434ED, 0x00000020) := by decide +kernel

/-- P8 a: a bad magic in an open packet is `ERR_SEQ`, and the packet is untouched. -/
theorem test_txStart_priority :
    seen (execTxStart 0x54455354 open1) (fun t => (t.resp, t.err, t.txrem, t.tx.length)) =
      some (some ⟨true, 2⟩, some .errSeq, 1, 7) := by decide

/-- R153's example: the last byte brings the trailer, most significant byte first. -/
theorem test_txByte_last :
    seen (execTxByte 0x01 open1) (fun t => (t.resp, t.tx, t.txst)) =
      some (answered 0, [0x43, 0x4F, 0x4D, 0x44, 0, 0, 0, 0x01, 0x68, 0x60, 0x20, 0x0A], .idle) := by decide +kernel

/-- P5: `TX.BYTE` with no packet open. -/
theorem test_txByte_sequence_fault :
    seen (execTxByte 0xAA State.reset) (fun t => (t.resp, t.tx)) = some (some ⟨true, 2⟩, []) := by decide

/-! ### Packet checker -/

/-- R172's example. -/
theorem test_ckStart : seen (execCkStart State.reset) statusWord = some 0x00000040 := by decide

/-- R173: the fourth magic byte; 95 section 3.3 gives `CKCRC` of `TEST` and the verdict 2. -/
theorem test_ckByte_bad_magic :
    seen (execCkByte 0x54 (checking .magic 1 0x00544553 (crcBytes 0xFFFFFFFF [0x54, 0x45, 0x53])))
        (fun t => (t.resp, t.cksh, t.ckcrc, statusWord t)) =
      some (answered 2, 0x54455354, 0xA5086684, 0x00000200) := by decide +kernel

/-- P4 step 27: the last trailer byte of a `HEAD` packet with one payload bit changed. -/
theorem test_ckByte_bad_crc :
    seen (execCkByte 0xF2 { checking .trailer 1 0x001A6714 0xC87ED52E with ckkind := some .head })
        (fun t => (t.resp, t.cksh, t.ckcrc, statusWord t)) =
      some (answered 3, 0x1A6714F2, 0xC87ED52E, 0x00000B00) := by decide

/-! ### Line recogniser -/

/-- R190. -/
theorem test_lnClear :
    seen (execLnClear { lined [0x41] with rclass := some .opaqueValue, rval := 7, sclass := some .ack })
        (fun t => (t.ln, t.rclass, t.rval, t.sclass)) = some ([], none, 0, none) := by decide

/-- R191's example. -/
theorem test_lnByte : seen (execLnByte 0x52 State.reset) (fun t => (t.resp, t.ln)) = some (answered 1, [0x52]) := by
  decide

/-- P9: the 13th byte with `LINE_MAX` 12. -/
theorem test_lnByte_overflow :
    seen (execLnByte 0x4D { lined (List.replicate 12 0x41) with params := ⟨12, .ack⟩ })
        (fun t => (t.resp, t.ln.length)) = some (some ⟨true, 5⟩, 12) := by decide

/-- R194's worked example: noise before, a trailer after. -/
theorem test_lnResp :
    seen (execLnResp (lined [0x0D, 0x0A, 0x52, 0x45, 0x53, 0x50, 0x78, 0x56, 0x34, 0x12, 0x8B, 0xAB, 0xE3, 0x3D]))
        (fun t => (t.resp, t.rval)) = some (answered 3, 0x12345678) := by decide

/-- R194: only the first occurrence counts (95 section 3.4). -/
theorem test_lnResp_first_occurrence :
    seen (execLnResp (lined [0x52, 0x45, 0x53, 0x50, 0x52, 0x45, 0x53, 0x50, 0xFF, 0xFF, 0xFF, 0xFF]))
        (fun t => (t.resp, t.rval)) = some (answered 3, 0x50534552) := by decide

/-- R195: `NACKW` holds both tokens; the parameter decides. -/
theorem test_lnStat_both_tokens :
    (seen (execLnStat (lined [0x4E, 0x41, 0x43, 0x4B, 0x57])) (·.resp),
      seen (execLnStat { lined [0x4E, 0x41, 0x43, 0x4B, 0x57] with params := ⟨64, .nack⟩ }) (·.resp)) =
      (some (answered 1), some (answered 2)) := by decide

/-- 95 section 3.4: "ACK W" holds no token. -/
theorem test_lnStat_unmatched :
    seen (execLnStat (lined [0x41, 0x43, 0x4B, 0x20, 0x57])) (fun t => (t.resp, t.sclass)) =
      some (answered 3, some .unmatched) := by decide

/-! ### Cipher -/

/-- R214's example. -/
theorem test_keyLoad :
    seen (execKeyLoad 0x5E6F7081 State.reset) (fun t => (t.key, statusWord t)) = some (0x5E6F7081, 4) := by decide

/-- R215. -/
theorem test_keyClr :
    seen (execKeyClr (keyed 0x5E6F7081 3)) (fun t => (t.key, t.keyv, t.kidx)) = some (0, false, 0) := by decide

/-- R216: the key stays. -/
theorem test_xSync :
    seen (execXSync (keyed 0x5E6F7081 3)) (fun t => (t.key, t.keyv, t.kidx)) = some (0x5E6F7081, true, 0) := by decide

/-- 95 section 3.5: key byte 3 of `0xAABBCCDD`; the index wraps. -/
theorem test_xByte :
    seen (execXByte 0x10 (keyed 0xAABBCCDD 3)) (fun t => (t.resp, t.kidx)) = some (answered 0xBA, 0) := by decide

/-- R215: after `KEY.CLR`, `X.BYTE 0x01` faults with `ERR_KEY`. -/
theorem test_xByte_no_key :
    seen (execXByte 0x01 State.reset) (fun t => (t.resp, t.kidx)) = some (some ⟨true, 4⟩, 0) := by decide

/-- R218's example; the index does not move (P11 step 3). -/
theorem test_xGrp :
    seen (execXGrp 0x04030201 (keyed 0x5E6F7081 1)) (fun t => (t.resp, statusWord t)) =
      some (answered 0x5A6C7280, 0x0000000C) := by decide

/-- R210's second example: seven bytes. -/
theorem test_xor_transform :
    xorTransform [0x10, 0x20, 0x30, 0x40, 0x50, 0x60, 0x70] 0xAABBCCDD =
      [0xCD, 0xEC, 0x8B, 0xEA, 0x8D, 0xAC, 0xCB] := by decide

/-! ### Received packets -/

/-- 95 section 3.3, first row: `STATUS` is `0x500`. -/
theorem test_pktComd :
    seen (execPktComd 1 0x6860200A State.reset) (fun t => (t.resp, t.cksh, statusWord t)) =
      some (answered 1, 0x6860200A, 0x00000500) := by decide +kernel

/-- 95 section 3.3: the `HEAD` packet of size 1 with a `COMD` packet's trailer. -/
theorem test_pktHead_bad_crc :
    seen (execPktHead 1 0x6860200A State.reset) (fun t => (t.resp, t.cksh, t.ckcrc)) =
      some (answered 3, 0x6860200A, 0x08796D8E) := by decide +kernel

/-- R173: the fourth magic byte of a `DATA` packet opens a payload of 1024 bytes; `CKCRC` is R152's example value. -/
theorem test_data_magic :
    seen (execCkByte 0x41 (checking .magic 1 0x00444154 (crcBytes 0xFFFFFFFF [0x44, 0x41, 0x54])))
        (fun t => (t.resp, t.ckst, t.ckcnt, t.ckkind, t.ckcrc)) =
      some (answered 0, .payload, 1024, some .data, 0x3965375A) := by decide +kernel

/-- 95 section 3.3: the last trailer byte of the `DATA` packet of a block of `FF`. -/
theorem test_data_verdict :
    seen (execCkByte 0x16 { checking .trailer 1 0x0044E539 0x44E53916 with ckkind := some .data })
        (fun t => (t.resp, t.cksh, t.ckcnt, t.ckst)) = some (answered 1, 0x44E53916, 0, .idle) := by decide

/-- A block shorter than 1024 bytes, as no well-formed `PKT.DATA` has, leaves the check open. -/
theorem test_pktData_short :
    seen (execPktData [0xFF, 0xFF] 0x44E53916 State.reset) (fun t => (t.resp, t.ckst, t.ckcnt)) =
      some (answered 0, .payload, 1018) := by decide +kernel

/-- 95 section 3.3, third row. -/
theorem test_pktPass :
    seen (execPktPass 0x80 0x72 0x6C 0x5A 0xB8271AE3 State.reset) (fun t => (t.resp, t.ckkind, t.ckcrc)) =
      some (answered 1, some .pass, 0xB8271AE3) := by decide +kernel

/-- 95 section 3.3, fourth row. -/
theorem test_pktResp :
    seen (execPktResp 0xFFFFFFFF 0x269C336B State.reset) (fun t => (t.resp, t.ckkind, t.ckcrc)) =
      some (answered 1, some .resp, 0x269C336B) := by decide +kernel

/-- 95 section 3.3: a packet cut short leaves the checker in `TRAILER` with 3 bytes to come; no verdict. -/
theorem test_packet_cut_short :
    seen (step (given (.packet [0x43, 0x4F, 0x4D, 0x44, 0, 0, 0, 1, 0x68])))
        (fun t => (t.resp, t.ckst, t.ckcnt, t.cksh)) = some (answered 0, .trailer, 3, 0x00000068) := by decide +kernel

/-- 95 section 3.3: surplus bytes are not fed. -/
theorem test_packet_surplus :
    seen (step (given (.packet [0x43, 0x4F, 0x4D, 0x44, 0, 0, 0, 1, 0x68, 0x60, 0x20, 0x0A, 0x55, 0x66])))
        (fun t => (t.resp, t.ckres, t.faulted)) = some (answered 1, some .ok, false) := by decide +kernel

/-! ### The host around the block -/

/-- R259, 95 section 4.1: 2500 bytes are 3 blocks. -/
theorem test_split_blocks : (splitImage (List.replicate 2500 0x00)).length = 3 := by decide +kernel

/-- R248: a user's code 2 is Get UID and a developer's Set Encryption Key; code 9 has no handler. -/
theorem test_command_codes :
    (HostCommand.ofCode .user 2, HostCommand.ofCode .developer 2, HostCommand.ofCode .user 3,
      HostCommand.ofCode .developer 9) = (some .getUid, some .setEncryptionKey, none, none) := by decide

/-- R255, R258: Check Key whose `RESP` never comes ends in `FramingTimeout`. -/
theorem test_check_key_unconfirmed :
    (match checkKey 0x01020304 ⟨State.reset, [some [0x41, 0x43, 0x4B, 0x57]]⟩ with
      | .error e => some e
      | .ok _ => none) = some .framingTimeout := by decide +kernel

/-- R248, 95 section 3.2: a user's Get UID is preceded by `COMD` of code 2. -/
theorem test_dispatch_user_get_uid :
    ((dispatchCommand .user .getUid ⟨State.reset, []⟩).toOption.map (·.block.tx)) =
      some [0x43, 0x4F, 0x4D, 0x44, 0x00, 0x00, 0x00, 0x02, 0x65, 0x23, 0x06, 0xD3] := by decide +kernel

/-- R252 with R219: `01 02 03 04` under the secret `0x5E6F7081` (95 section 4.2). -/
theorem test_operator_key_ciphered :
    xorTransform [0x01, 0x02, 0x03, 0x04] (deviceSecret (0x1A2B3C4D, 0x5E6F7081, 0x92A3B4C5)) =
      [0x80, 0x72, 0x6C, 0x5A] := by decide

/-! ### Witnesses: the hypotheses of each statement, clause by clause, at the boundary values -/

theorem test_witness_ResetOperation : (1 : Word) ≠ 0 ∧ locked.faulted = true := by decide

/-- `RD 0` and `RD 8` bound the registers read by the list, `RD 9` is `LNLEN`; `RD 10` is the first reserved number, `RD
255` the last. -/
theorem test_witness_RdOperation :
    256 ≤ (0x00000100 : Word).toNat ∧
    (([statusWord State.reset, 0, State.reset.crc, State.reset.txcrc, State.reset.txrem.setWidth 32, State.reset.ckcrc,
      State.reset.ckcnt.setWidth 32, State.reset.cksh, State.reset.rval] : List Word)[(8 : Byte).toNat]? = some 0) ∧
    State.reset.ln.length < 2 ^ 32 ∧
    (10 ≤ (10 : Byte).toNat ∧ State.reset.faulted = false) ∧ 10 ≤ (255 : Byte).toNat ∧ locked.faulted = true := by
  decide

theorem test_witness_CrcInitOperation : (1 : Word) ≠ 0 ∧ locked.faulted = true ∧ State.reset.faulted = false := by decide

theorem test_witness_CrcByteOperation :
    256 ≤ (0x00000100 : Word).toNat ∧ locked.faulted = true ∧ State.reset.faulted = false := by decide

theorem test_witness_CrcCmpOperation :
    locked.faulted = true ∧ (State.reset.faulted = false ∧ State.reset.crc = 0xFFFFFFFF) ∧
      (State.reset.faulted = false ∧ State.reset.crc ≠ 0xFFFFFFFE) := by decide

theorem test_witness_TxStartOperation :
    locked.faulted = true ∧ (State.reset.faulted = false ∧ State.reset.txst = .idle) ∧
      (open1.faulted = false ∧ open1.txst = .payload) ∧
      (0x54455354 : Word) ∉ [(0x434F4D44 : Word), 0x48454144, 0x44415441, 0x50415353, 0x52455350] := by decide

/-- One byte owed (the last), two and 1024 owed (not the last), none open. -/
theorem test_witness_TxByteOperation :
    256 ≤ (0x00000100 : Word).toNat ∧ locked.faulted = true ∧
      (openData.faulted = false ∧ openData.txst = .payload ∧ 1 < openData.txrem.toNat) ∧
      1 < ({ open1 with txrem := 2 } : State).txrem.toNat ∧
      (open1.faulted = false ∧ open1.txst = .payload ∧ open1.txrem.toNat = 1) ∧
      (State.reset.faulted = false ∧ State.reset.txst = .idle) := by decide

theorem test_witness_FramerAppendsEncodedPacket :
    State.reset.faulted = false ∧ State.reset.txst = .idle ∧ State.reset.txrem = 0 ∧
      ([0, 0, 0, 1] : List Byte).length = Magic.comd.plen ∧
      (List.replicate 1024 (0xFF : Byte)).length = Magic.data.plen := by
  decide +kernel

/-- A block with a packet open and a byte of payload presented. -/
theorem test_witness_StepKeepsTransmitStreamFramed :
    TxFramed openData ∧ (∃ t, step { openData with inbox := [.command 0x2100000055] } = .next t) ∧
      (openData.txst = .payload → [Input.command 0x2100000055].head? ≠ some (.command 0x0100000000)) :=
  ⟨⟨[], by simp, .data, [], by decide, by decide, by decide +kernel⟩, ⟨_, rfl⟩, by decide⟩

theorem test_witness_TransmitStreamOnlyGrows : ∃ t, step (given (.command 0x20434F4D44)) = .next t := ⟨_, rfl⟩

theorem test_witness_CkStartOperation :
    (1 : Word) ≠ 0 ∧ locked.faulted = true ∧ State.reset.faulted = false := by decide

/-- Two bytes expected, the fourth byte completing `COMD`, the fourth byte completing `TEST`, no check in progress. -/
theorem test_witness_CkByteInMagicPhase :
    256 ≤ (0x00000100 : Word).toNat ∧ locked.faulted = true ∧
      (State.reset.faulted = false ∧ State.reset.ckst = .idle) ∧
      1 < (checking .magic 2 0 0).ckcnt.toNat ∧ (checking .magic 1 0 0).ckcnt.toNat = 1 ∧
      ((0x00434F4D : Word) <<< 8) ||| (0x44 : Byte).setWidth 32 = Magic.comd.number ∧
      Magic.ofNumber (((0x00544553 : Word) <<< 8) ||| (0x54 : Byte).setWidth 32) = none := by decide

/-- A `DATA` payload just begun, its last byte, a trailer with more to come, a right and a wrong last trailer byte. -/
theorem test_witness_CkByteInPayloadAndTrailerPhases :
    (1 < (checking .payload 1024 0 0).ckcnt.toNat ∧ (checking .payload 1 0 0).ckcnt.toNat = 1) ∧
      (1 < (checking .trailer 4 0 0).ckcnt.toNat ∧ 1 < (checking .trailer 2 0 0).ckcnt.toNat) ∧
      (checking .trailer 1 0x00686020 0x6860200A).ckcnt.toNat = 1 ∧
      ((0x00686020 : Word) <<< 8) ||| (0x0A : Byte).setWidth 32 = 0x6860200A ∧
      ((0x00686020 : Word) <<< 8) ||| (0x0B : Byte).setWidth 32 ≠ 0x6860200A := by decide

theorem test_witness_VerifyAcceptsEncodedPackets :
    ([0x80, 0x72, 0x6C, 0x5A] : List Byte).length = Magic.pass.plen := by decide

/-- The four results of `verify` (95 section 3.3). -/
theorem test_witness_CheckerAgreesWithVerify :
    State.reset.faulted = false ∧
      verify [0x43, 0x4F, 0x4D, 0x44, 0, 0, 0, 1, 0x68, 0x60, 0x20, 0x0A] = .ok .comd [0, 0, 0, 1] ∧
      verify [0x48, 0x45, 0x41, 0x44, 0, 0, 0, 1, 0x68, 0x60, 0x20, 0x0A] = .badCrc .head ∧
      verify [0x54, 0x45, 0x53, 0x54] = .badMagic ∧
      verify [0x43, 0x4F, 0x4D, 0x44, 0, 0, 0, 1, 0x68, 0x60, 0x20] = .incomplete ∧ verify [0x43] = .incomplete := by
  decide +kernel

theorem test_witness_ReceivedPacketVerdicts :
    State.reset.faulted = false ∧ (List.replicate 1024 (0 : Byte)).length = 1024 ∧ locked.faulted = true := by
  decide +kernel

theorem test_witness_LnClearOperation :
    (1 : Word) ≠ 0 ∧ locked.faulted = true ∧ State.reset.faulted = false := by decide

/-- The last byte that fits in a buffer of 12, and the first that does not. -/
theorem test_witness_LnByteOperation :
    256 ≤ (0x00000100 : Word).toNat ∧ locked.faulted = true ∧ State.reset.faulted = false ∧
      (List.replicate 11 (0x41 : Byte)).length < (12 : Nat) ∧ (List.replicate 11 (0x41 : Byte)).length + 1 < 2 ^ 32 ∧
      (List.replicate 12 (0x41 : Byte)).length = (12 : Nat) := by simp [locked, State.reset]

theorem test_witness_FindIsSmallestOffset : respPattern.length = 4 := by decide

/-- No magic; a magic with three bytes after it; with four, for the three values' classes. -/
theorem test_witness_DecodeResponseOutcomes :
    find [0x52, 0x45, 0x53, 0x50] [0x4F, 0x4B] = none ∧
      find [0x52, 0x45, 0x53, 0x50] [0x52, 0x45, 0x53, 0x50, 0xFF, 0xFF, 0xFF] = some 0 ∧
      find [0x52, 0x45, 0x53, 0x50] [0x20, 0x52, 0x45, 0x53, 0x50, 0xFF, 0xFF, 0xFF, 0xFF] = some 1 ∧
      (([0x20, 0x52, 0x45, 0x53, 0x50, 0xFF, 0xFF, 0xFF, 0xFF] : List Byte).drop 5).take 4 = le32 0xFFFFFFFF ∧
      ([0x33, 0x33, 0x33, 0x33] : List Byte) = le32 0x33333333 ∧
      (0x33333334 : Word) ≠ 0xFFFFFFFF ∧ (0x33333334 : Word) ≠ 0x33333333 := by decide

theorem test_witness_LnRespOperation :
    (1 : Word) ≠ 0 ∧ locked.faulted = true ∧ State.reset.faulted = false ∧
      decodeResponse [0x52, 0x45, 0x53, 0x50, 0xFF, 0xFF, 0xFF, 0xFF] = .success 0xFFFFFFFF ∧
      decodeResponse [0x52, 0x45, 0x53, 0x50, 0x33, 0x33, 0x33, 0x33] = .failure 0x33333333 ∧
      decodeResponse [0x52, 0x45, 0x53, 0x50, 0xFE, 0xFF, 0xFF, 0xFF] = .opaqueValue 0xFFFFFFFE ∧
      decodeResponse [0x52, 0x45, 0x53, 0x50, 0xFF, 0xFF, 0xFF] = .notFound := by decide

theorem test_witness_ClassifyStatusLineOutcomes :
    ([0x41, 0x43, 0x4B, 0x57] <:+: ([0x41, 0x43, 0x4B, 0x57] : List Byte) ∧
      ¬ [0x4E, 0x41, 0x43, 0x4B] <:+: ([0x41, 0x43, 0x4B, 0x57] : List Byte)) ∧
    ([0x4E, 0x41, 0x43, 0x4B] <:+: ([0x4E, 0x41, 0x43, 0x4B, 0x0A] : List Byte) ∧
      ¬ [0x41, 0x43, 0x4B, 0x57] <:+: ([0x4E, 0x41, 0x43, 0x4B, 0x0A] : List Byte)) ∧
    ([0x41, 0x43, 0x4B, 0x57] <:+: ([0x4E, 0x41, 0x43, 0x4B, 0x57] : List Byte) ∧
      [0x4E, 0x41, 0x43, 0x4B] <:+: ([0x4E, 0x41, 0x43, 0x4B, 0x57] : List Byte)) ∧
    (¬ [0x41, 0x43, 0x4B, 0x57] <:+: ([0x41, 0x43, 0x4B] : List Byte) ∧
      ¬ [0x4E, 0x41, 0x43, 0x4B] <:+: ([0x41, 0x43, 0x4B] : List Byte)) := by decide

theorem test_witness_LnStatOperation :
    (1 : Word) ≠ 0 ∧ locked.faulted = true ∧ State.reset.faulted = false ∧
      classifyStatusLine .nack [0x41, 0x43, 0x4B, 0x57] = .ack ∧
      classifyStatusLine .nack [0x4E, 0x41, 0x43, 0x4B, 0x57] = .nack ∧
      classifyStatusLine .ack [] = .unmatched := by decide

/-- A line of exactly `LINE_MAX` bytes, 12. -/
theorem test_witness_LineSequenceClassifies :
    ({ State.reset with params := ⟨12, .ack⟩ } : State).faulted = false ∧
      (List.replicate 12 (0x41 : Byte)).length ≤ 12 ∧ (List.replicate 12 (0x41 : Byte)).length = 12 := by
  simp [State.reset]

theorem test_witness_KeyLoadOperation : locked.faulted = true ∧ State.reset.faulted = false := by decide

theorem test_witness_KeyClrOperation :
    (1 : Word) ≠ 0 ∧ locked.faulted = true ∧ State.reset.faulted = false := by decide

theorem test_witness_XSyncOperation :
    (1 : Word) ≠ 0 ∧ locked.faulted = true ∧ State.reset.faulted = false := by decide

/-- A key at stream positions 0 and 3 (where the index wraps), and no key. -/
theorem test_witness_XByteOperation :
    256 ≤ (0x00000100 : Word).toNat ∧ locked.faulted = true ∧
      ((keyed 0x5E6F7081 0).faulted = false ∧ (keyed 0x5E6F7081 0).keyv = true) ∧
      ((keyed 0x5E6F7081 3).faulted = false ∧ (keyed 0x5E6F7081 3).keyv = true) ∧
      (State.reset.faulted = false ∧ State.reset.keyv = false) := by decide

theorem test_witness_XGrpOperation :
    locked.faulted = true ∧ ((keyed 0 0).faulted = false ∧ (keyed 0 0).keyv = true) ∧
      (State.reset.faulted = false ∧ State.reset.keyv = false) := by decide

theorem test_witness_XorTransformFormula : ([0x10, 0x20, 0x30, 0x40, 0x50] : List Byte)[4]? = some 0x50 := by decide

theorem test_witness_CipherLaws :
    xorGroup [0x01, 0x02, 0x03, 0x04] 0x5E6F7081 = some [0x80, 0x72, 0x6C, 0x5A] ∧
      ([1, 2] : List Byte).length = ([3, 4] : List Byte).length ∧ (8 : Nat) < 9 := by decide

theorem test_witness_GroupModeAgreesWithStreamMode :
    ([1, 2, 3, 4] : List Byte).length % 4 = 0 ∧ ([1, 2, 3, 4, 5] : List Byte).length % 4 ≠ 0 := by decide

theorem test_witness_StreamOfBytesIsXorTransform :
    (keyed 0xAABBCCDD 0).faulted = false ∧ (keyed 0xAABBCCDD 0).keyv = true ∧ (keyed 0xAABBCCDD 0).kidx = 0 := by decide

theorem test_witness_MixedWidthViewsConsistent :
    (keyed 0x5E6F7081 0).faulted = false ∧ (keyed 0x5E6F7081 0).keyv = true ∧ (keyed 0x5E6F7081 0).kidx = 0 := by decide

/-- `RD 9` is accepted, `RD 10` is not; an illegal `RESET` word. -/
theorem test_witness_LockRefusesEverythingElse :
    locked.faulted = true ∧ (9 : Byte).toNat ≤ 9 ∧ ¬ AcceptedWhileFaulted (.rd 10) ∧
      ¬ AcceptedWhileFaulted (.crcByte 0x31) ∧ decodeCommand 0x0100000001 = .error .immediateNotZero := by
  refine ⟨by decide, by decide, ?_, ?_, by decide⟩
  · rintro (h | ⟨r, h, hr⟩)
    · cases h
    · cases h; exact absurd hr (by decide)
  · rintro (h | ⟨r, h, hr⟩) <;> cases h

theorem test_witness_FaultWritesNothingElse :
    State.reset.faulted = false ∧ ∃ t, runInput (.command 0x21000000AA) State.reset = .next t ∧ t.faulted = true :=
  ⟨rfl, _, rfl, rfl⟩

/-- Each cause of R283 in a block with no fault recorded, and an illegal word. -/
theorem test_witness_FaultCausesComplete :
    State.reset.faulted = false ∧ State.reset.err = none ∧ (∃ t, exec (.txByte 0) State.reset = .next t) ∧
      (∃ t, exec (.txStart 0) State.reset = .next t) ∧ (∃ t, exec (.xGrp 0) State.reset = .next t) ∧
      (∃ t, exec (.rd 10) State.reset = .next t) ∧ open1.txst = .payload ∧
      (lined (List.replicate 64 0x41)).ln.length = (lined (List.replicate 64 0x41)).params.lineMax ∧
      decodeCommand 0x1300000000 = .error .reservedOp :=
  ⟨rfl, rfl, ⟨_, rfl⟩, ⟨_, rfl⟩, ⟨_, rfl⟩, ⟨_, rfl⟩, rfl, by decide, by decide⟩

theorem test_witness_OperationsWriteOnlyTheirRow :
    (∃ t, exec .crcInit State.reset = .next t ∧ t.resp = answered 0) ∧ Component.crcok ∉ writesOf .crcInit :=
  ⟨⟨_, rfl, rfl⟩, by decide⟩

theorem test_witness_UnitsShareNoState :
    unitOf (.crcByte 0x61) ≠ .system ∧ State.reset.faulted = false ∧ (keyed 0x5E6F7081 2).faulted = false ∧
      State.reset.params = (keyed 0x5E6F7081 2).params ∧ SameUnit (unitOf (.crcByte 0x61)) State.reset (keyed 0x5E6F7081 2) ∧
      ∃ t, exec (.crcByte 0x61) State.reset = .next t :=
  ⟨by decide, rfl, rfl, rfl, ⟨rfl, rfl⟩, _, rfl⟩

/-- `TX.START` and `KEY.LOAD`, as P7 interleaves them. -/
theorem test_witness_OperationsOfDifferentUnitsCommute :
    unitOf (.txStart 0x50415353) ≠ .system ∧ unitOf (.keyLoad 0x01020304) ≠ .system ∧
      unitOf (.txStart 0x50415353) ≠ unitOf (.keyLoad 0x01020304) ∧ State.reset.faulted = false ∧
      ∃ a b c d, exec (.txStart 0x50415353) State.reset = .next a ∧ a.faulted = false ∧
        exec (.keyLoad 0x01020304) a = .next b ∧ exec (.keyLoad 0x01020304) State.reset = .next c ∧
        c.faulted = false ∧ exec (.txStart 0x50415353) c = .next d :=
  ⟨by decide, by decide, by decide, rfl, _, _, _, _, rfl, rfl, rfl, rfl, rfl, rfl⟩

theorem test_witness_KeyReachesOnlyTheCipherResults :
    (∀ b, Instr.rd 0 ≠ .xByte b) ∧ (∀ w, Instr.rd 0 ≠ .xGrp w) ∧ ∃ t, exec (.rd 0) (keyed 0x5E6F7081 0) = .next t :=
  ⟨fun _ h => (by cases h), fun _ h => (by cases h), _, rfl⟩

theorem test_witness_IdempotentOperations :
    Instr.lnResp ∈ [Instr.reset, .crcInit, .ckStart, .lnClear, .lnResp, .lnStat, .keyClr, .xSync] ∧
      ∃ t, exec .lnResp State.reset = .next t := ⟨by decide, _, rfl⟩

/-- A block with one payload byte owed, three trailer bytes to come and a byte presented. -/
theorem test_witness_StepKeepsInvariant :
    StateInv { open1 with ckst := .trailer, ckcnt := 3, inbox := [.command 0x2100000001] } ∧
      ∃ t, step { open1 with ckst := .trailer, ckcnt := 3, inbox := [.command 0x2100000001] } = .next t :=
  ⟨by constructor <;> decide, _, rfl⟩

theorem test_witness_StepNeverStops : StateInv locked := by constructor <;> decide

/-- An input of each kind: a legal word, an illegal word, received bytes that are no whole packet, none. -/
theorem test_witness_StepRunsTheDecodedInstruction :
    decode (.command 0x1100000031) = .ok (.crcByte 0x31) ∧
      (given (.command 0x1100000031)).inbox = .command 0x1100000031 :: [] ∧
      decodeCommand 0x0000000000 = .error .reservedOp ∧ decodePacket [0x43, 0x4F] = .error .packetTooShort ∧
      State.reset.inbox = [] := by decide

theorem test_witness_DecodeReadsBackEncode : (Instr.pktData (List.replicate 1024 0xFF) 0x44E53916).wellFormed = true := by
  decide +kernel

theorem test_witness_EncodingIsUnique : decode (.command 0x5300000054) = .ok (.xByte 0x54) := by decide

theorem test_witness_SendPseudoOperationsAppendPackets :
    State.reset.faulted = false ∧ State.reset.txst = .idle ∧ (List.replicate 1024 (0xFF : Byte)).length = 1024 := by
  decide +kernel

theorem test_witness_FeedPseudoOperations :
    State.reset.faulted = false ∧ ((keyed 1 3).faulted = false ∧ (keyed 1 3).keyv = true) ∧
      ([1, 2, 3, 4] : List Byte).length = Magic.head.plen := by decide

theorem test_witness_ChunkerProperties : (0xFF : Byte) ∈ padBlock [0x01] := by
  decide +kernel

/-- A `PASS` packet from reset with `LINE_MAX` 12; a read that times out, a `NACK`, a line of `LINE_MAX` bytes with no
token. -/
theorem test_witness_RetryStopsAtTheCeiling :
    (([0x80, 0x72, 0x6C, 0x5A] : List Byte).length = Magic.pass.plen ∧
      ({ State.reset with params := ⟨12, .ack⟩ } : State).txst = .idle) ∧
    ({ State.reset with params := ⟨12, .ack⟩ } : State).faulted = false ∧ (⟨12, .ack⟩ : Params).Legal ∧
      ∀ line, some line ∈ [none, some [0x4E, 0x41, 0x43, 0x4B], some (List.replicate 12 (0x41 : Byte))] →
        line.length ≤ 12 ∧ classifyStatusLine .ack line ≠ .ack := by
  refine ⟨by decide, rfl, by decide, fun line h => ?_⟩
  simp only [List.mem_cons, Option.some.injEq, List.not_mem_nil, or_false, reduceCtorEq, false_or] at h
  rcases h with rfl | rfl <;> decide

end Sys2Proof.Machine
end

section
/-! PROOF. Progress (spec/00_scope.md R14, R15): the model's one stop is a counter decremented at zero, and R23 rules that
out; every other meaning answers a next state from every state. -/

namespace Sys2Proof.Machine

/-- R23 speaks of the block's components; what the host will present is none of them. -/
theorem StateInv.withInbox {s : State} (h : StateInv s) (inbox : List Input) : StateInv { s with inbox := inbox } where
  lineMaxLegal := h.lineMaxLegal
  txIdle := h.txIdle
  txRemaining := h.txRemaining
  ckIdle := h.ckIdle
  ckFour := h.ckFour
  ckRemaining := h.ckRemaining
  lineFits := h.lineFits
  faultedErr := h.faultedErr

theorem StateInv.txrem_ne_zero {s : State} (h : StateInv s) (hp : s.txst = .payload) : s.txrem ≠ 0 := fun h0 => by
  have hi : s.txst = .idle := h.txIdle.2 h0
  rw [hp] at hi
  cases hi

theorem StateInv.ckcnt_ne_zero {s : State} (h : StateInv s) (ho : s.ckst ≠ .idle) : s.ckcnt ≠ 0 :=
  fun h0 => ho (h.ckIdle.2 h0)

/-- The lock answers by itself; past it the operation's own work has to. -/
theorem unlessLocked_answers {s : State} {body : Result} (h : ∃ t, body = .next t) :
    ∃ t, unlessLocked s body = .next t := by
  obtain ⟨t, ht⟩ := h
  cases hf : s.faulted with
  | true => exact ⟨refuse s, unlessLocked_of_faulted hf body⟩
  | false => exact ⟨t, (unlessLocked_of_unfaulted hf body).trans ht⟩

/-- The shape of `LN.BYTE`, `X.BYTE` and `X.GRP`: a test, and a completion or a fault of the block on either side. -/
theorem unlessLocked_ite_answers {c : Prop} [Decidable c] {s t u : State} :
    ∃ v, unlessLocked s (if c then .next t else .next u) = .next v :=
  unlessLocked_answers (by split_ifs <;> exact ⟨_, rfl⟩)

theorem execRd_answers (r : Byte) (s : State) : ∃ t, execRd r s = .next t := by
  cases hv : registerValue s r with
  | none => exact ⟨_, execRd_next.2 (.inr ⟨hv, rfl⟩)⟩
  | some v => exact ⟨_, execRd_next.2 (.inl ⟨v, hv, rfl⟩)⟩

theorem execTxStart_answers (m : Word) (s : State) : ∃ t, execTxStart m s = .next t := by
  refine unlessLocked_answers ?_
  cases s.txst with
  | payload => exact ⟨_, rfl⟩
  | idle => cases Magic.ofNumber m <;> exact ⟨_, rfl⟩

/-- `TX.BYTE` stops only in an open packet that owes no byte. -/
theorem execTxByte_answers (b : Byte) {s : State} (h : s.txst = .payload → s.txrem ≠ 0) :
    ∃ t, execTxByte b s = .next t := by
  refine unlessLocked_answers ?_
  cases hst : s.txst with
  | idle => exact ⟨_, rfl⟩
  | payload =>
    simp only [if_neg (h hst)]
    split_ifs <;> exact ⟨_, rfl⟩

/-- `CK.BYTE` stops only in a check in progress that expects no byte. -/
theorem execCkByte_answers (b : Byte) {s : State} (h : s.ckst ≠ .idle → s.ckcnt ≠ 0) :
    ∃ t, execCkByte b s = .next t := by
  refine unlessLocked_answers ?_
  cases hu : ckByteState b s with
  | none => exact ⟨_, rfl⟩
  | some u =>
    have ho : s.ckst ≠ .idle := fun hi => by simp [ckByteState, hi] at hu
    simp only [if_neg (h ho)]
    exact ⟨_, rfl⟩

theorem ckFeed_answers_next (bytes : List Byte) (s : State) : ∃ t, ckFeed bytes s = .next t :=
  (ckFeed_answers bytes s).imp fun _ h => h.1

/-- Every instruction answers a next state where R23 holds; R23 is needed by `TX.BYTE` and `CK.BYTE` alone. -/
theorem exec_answers (i : Instr) {s : State} (h : StateInv s) : ∃ t, exec i s = .next t := by
  cases i with
  | reset => exact ⟨_, rfl⟩
  | rd r => exact execRd_answers r s
  | txStart m => exact execTxStart_answers m s
  | txByte b => exact execTxByte_answers b h.txrem_ne_zero
  | ckByte b => exact execCkByte_answers b h.ckcnt_ne_zero
  | lnByte | xByte | xGrp => exact unlessLocked_ite_answers
  | crcInit | crcByte | crcCmp | ckStart | lnClear | lnResp | lnStat | keyLoad | keyClr | xSync =>
    exact unlessLocked_answers ⟨_, rfl⟩
  | pktComd | pktHead | pktData | pktPass | pktResp => exact ckFeed_answers_next _ s

/-- What names no instruction is answered too: by `ERR_OP`, by the lock's refusal, or by the checker (R103, R175). -/
theorem runUndecoded_answers (x : Input) (s : State) : ∃ t, runUndecoded x s = .next t := by
  cases x with
  | command cmd => exact ⟨takeFault .errOp s, rfl⟩
  | packet bytes => exact ckFeed_answers_next bytes s

theorem runInput_answers (x : Input) {s : State} (h : StateInv s) : ∃ t, runInput x s = .next t := by
  cases hd : decode x with
  | ok i =>
    rw [runInput_of_ok hd]
    exact exec_answers i h
  | error e =>
    rw [runInput_of_error hd]
    exact runUndecoded_answers x s

/-- Settles O51: with nothing presented the block waits, and any input is answered where R23 holds. -/
theorem stepNeverStops : Obligations.StepNeverStops := by
  intro s h
  cases hi : s.inbox with
  | nil => exact ⟨s, step_of_empty hi⟩
  | cons x rest =>
    rw [step_of_cons hi]
    exact runInput_answers x (h.withInbox rest)

end Sys2Proof.Machine
end

section
/-! PROOF. The sequencing invariants of spec/10_state.md R23: they hold at reset and every step keeps them. -/

namespace Sys2Proof.Machine

/-- What R23 speaks of: the parameters, the two phases with their counters, the line, and the fault. -/
def sequencing (s : State) : Params × TxState × Count × CkState × Count × List Byte × Bool × Option FaultCode :=
  (s.params, s.txst, s.txrem, s.ckst, s.ckcnt, s.ln, s.faulted, s.err)

/-- A change outside what R23 speaks of keeps R23. -/
theorem StateInv.of_sequencing_eq {s t : State} (h : StateInv s) (hst : sequencing t = sequencing s) : StateInv t := by
  simp only [sequencing, Prod.mk.injEq] at hst
  obtain ⟨hparams, htxst, htxrem, hckst, hckcnt, hln, hfaulted, herr⟩ := hst
  obtain ⟨h1, h2, h3, h4, h5, h6, h7, h8⟩ := h
  constructor <;> simpa only [hparams, htxst, htxrem, hckst, hckcnt, hln, hfaulted, herr]

theorem StateInv.respond {s : State} (h : StateInv s) (ret : Word) : StateInv (respond ret s) :=
  h.of_sequencing_eq rfl

theorem StateInv.refuse {s : State} (h : StateInv s) : StateInv (refuse s) :=
  h.of_sequencing_eq rfl

/-- A fault writes `ERR` and `FAULTED` together, or is refused by the lock (R282, R284). -/
theorem StateInv.takeFault {s : State} (h : StateInv s) (e : FaultCode) : StateInv (takeFault e s) := by
  cases hf : s.faulted with
  | true =>
    rw [takeFault_of_faulted hf]
    exact h.refuse
  | false =>
    rw [takeFault_of_unfaulted hf]
    exact { h with faultedErr := by simp }

/-- The values of R33 meet R23 whatever the parameters, the bytes already sent and what the host will present. -/
theorem stateInv_resetWith {p : Params} (hp : p.Legal) (tx : List Byte) (inbox : List Input) :
    StateInv { State.reset with params := p, tx := tx, inbox := inbox } where
  lineMaxLegal := hp
  txIdle := by simp [State.reset]
  txRemaining := by simp [State.reset]
  ckIdle := by simp [State.reset]
  ckFour := by simp [State.reset]
  ckRemaining := by simp [State.reset]
  lineFits := by simp [State.reset]
  faultedErr := by simp [State.reset]

/-- Past the lock only the operation's own work has to keep R23. -/
theorem StateInv.of_lock {s t : State} {work : Prop} (h : StateInv s) (hwork : work → StateInv t)
    (hst : (s.faulted = true ∧ t = Machine.refuse s) ∨ (s.faulted = false ∧ work)) : StateInv t := by
  rcases hst with ⟨-, rfl⟩ | ⟨-, hw⟩
  · exact h.refuse
  · exact hwork hw

/-- An operation that completes in every unlocked state keeps R23 when what it leaves meets R23. -/
theorem StateInv.of_completion {s u t : State} {ret : Word} (h : StateInv s)
    (hst : unlessLocked s (complete ret u) = .next t) (hu : StateInv u) : StateInv t := by
  refine h.of_lock ?_ (unlessLocked_next.1 hst)
  rw [complete_next]
  rintro rfl
  exact hu.respond ret

/-- A counter that is decremented above zero gets no larger (R15). -/
theorem count_sub_one_le {c : Count} (h : c ≠ 0) : (c - 1).toNat ≤ c.toNat := by
  bv_omega

/-- An open packet owes `plen(m)` bytes, at least one and at most 1024 (R152). -/
theorem execTxStart_keeps {m : Word} {s t : State} (h : StateInv s) (hst : execTxStart m s = .next t) : StateInv t := by
  refine h.of_lock ?_ (execTxStart_next.1 hst)
  rintro (⟨-, rfl⟩ | ⟨-, -, rfl⟩ | ⟨k, -, -, rfl⟩)
  · exact h.takeFault _
  · exact h.takeFault _
  · refine { h with txIdle := ?_, txRemaining := ?_ }
    · cases k <;> simp [Magic.plenCount, Magic.plen]
    · exact (Magic.plenCount_toNat k).trans_le k.plen_le

/-- The packet closes exactly when the last byte it owes goes out (R153). -/
theorem execTxByte_keeps {b : Byte} {s t : State} (h : StateInv s) (hst : execTxByte b s = .next t) : StateInv t := by
  refine h.of_lock ?_ (execTxByte_next.1 hst)
  rintro (⟨-, rfl⟩ | ⟨-, -, -, rfl⟩ | ⟨hp, h0, h1, rfl⟩)
  · exact h.takeFault _
  · exact { h with txIdle := by simp, txRemaining := by simp }
  · refine { h with txIdle := ?_, txRemaining := ?_ }
    · exact iff_of_false (by simp [hp]) h1
    · exact (count_sub_one_le h0).trans h.txRemaining

theorem StateInv.ckStartState {s : State} (h : StateInv s) : StateInv (ckStartState s) :=
  { h with
    ckIdle := by simp [Machine.ckStartState]
    ckFour := by simp [Machine.ckStartState]
    ckRemaining := by simp [Machine.ckStartState] }

/-- One expected byte fewer in an open phase: the phase goes on where bytes remain (R173). -/
theorem StateInv.ckCountdown {s t : State} (h : StateInv s) (h0 : s.ckcnt ≠ 0) (h1 : s.ckcnt - 1 ≠ 0)
    (hst : sequencing t = sequencing { s with ckcnt := s.ckcnt - 1 }) : StateInv t := by
  have hle := count_sub_one_le h0
  have hopen : s.ckst ≠ .idle := fun hi => h0 (h.ckIdle.1 hi)
  have hnext : StateInv { s with ckcnt := s.ckcnt - 1 } :=
    { h with
      ckIdle := iff_of_false hopen h1
      ckFour := fun hp => hle.trans (h.ckFour hp)
      ckRemaining := hle.trans h.ckRemaining }
  exact hnext.of_sequencing_eq hst

/-- The check is over: no phase, no byte expected (R173). -/
theorem StateInv.ckClose {s t : State} (h : StateInv s)
    (hst : sequencing t = sequencing { s with ckst := .idle, ckcnt := 0 }) : StateInv t := by
  have hnext : StateInv { s with ckst := .idle, ckcnt := 0 } :=
    { h with ckIdle := by simp, ckFour := by simp, ckRemaining := by simp }
  exact hnext.of_sequencing_eq hst

theorem StateInv.ckMagicByte {s : State} (b : Byte) (h : StateInv s) (h0 : s.ckcnt ≠ 0) :
    StateInv (ckMagicByte b s) := by
  unfold Machine.ckMagicByte
  split_ifs with h1
  · cases Magic.ofNumber (shiftIn s.cksh b) with
    | none => exact h.ckClose rfl
    | some k =>
      refine { h with ckIdle := ?_, ckFour := by simp, ckRemaining := ?_ }
      · cases k <;> simp [Magic.plenCount, Magic.plen]
      · exact (Magic.plenCount_toNat k).trans_le k.plen_le
  · exact h.ckCountdown h0 h1 rfl

theorem StateInv.ckPayloadByte {s : State} (b : Byte) (h : StateInv s) (h0 : s.ckcnt ≠ 0) :
    StateInv (ckPayloadByte b s) := by
  unfold Machine.ckPayloadByte
  split_ifs with h1
  · exact { h with ckIdle := by simp, ckFour := by simp, ckRemaining := by simp }
  · exact h.ckCountdown h0 h1 rfl

theorem StateInv.ckTrailerByte {s : State} (b : Byte) (h : StateInv s) (h0 : s.ckcnt ≠ 0) :
    StateInv (ckTrailerByte b s) := by
  unfold Machine.ckTrailerByte
  by_cases h1 : s.ckcnt - 1 = 0
  · rw [if_pos h1]
    exact h.ckClose rfl
  · rw [if_neg h1]
    exact h.ckCountdown h0 h1 rfl

theorem ckByteState_keeps {b : Byte} {s u : State} (h : StateInv s) (h0 : s.ckcnt ≠ 0)
    (hu : ckByteState b s = some u) : StateInv u := by
  unfold ckByteState at hu
  cases hs : s.ckst with
  | idle => rw [hs] at hu; cases hu
  | magic => rw [hs] at hu; cases hu; exact h.ckMagicByte b h0
  | payload => rw [hs] at hu; cases hu; exact h.ckPayloadByte b h0
  | trailer => rw [hs] at hu; cases hu; exact h.ckTrailerByte b h0

theorem execCkByte_keeps {b : Byte} {s t : State} (h : StateInv s) (hst : execCkByte b s = .next t) : StateInv t := by
  refine h.of_lock ?_ (execCkByte_next.1 hst)
  rintro (⟨-, rfl⟩ | ⟨-, h0, u, hu, rfl⟩)
  · exact h.takeFault _
  · exact (ckByteState_keeps h h0 hu).respond _

/-- A feed is `CK.START` and some `CK.BYTE`s, and each keeps R23. -/
theorem ckFeed_keeps {bytes : List Byte} {s t : State} (h : StateInv s) (hst : ckFeed bytes s = .next t) :
    StateInv t := by
  refine h.of_lock ?_ (ckFeed_next.1 hst)
  refine ckFeedBytes_induct (P := StateInv) (Q := StateInv) (fun _ hu => hu) (fun b u v hu huv => ?_)
    (h.ckStartState.respond 0)
  exact ⟨execCkByte_keeps hu huv, fun _ => execCkByte_keeps hu huv⟩

/-- A byte is stored only where the line is not full (R191). -/
theorem execLnByte_keeps {b : Byte} {s t : State} (h : StateInv s) (hst : execLnByte b s = .next t) : StateInv t := by
  refine h.of_lock ?_ (execLnByte_next.1 hst)
  rintro (⟨-, rfl⟩ | ⟨hroom, rfl⟩)
  · exact h.takeFault _
  · have hfits : (s.ln ++ [b]).length ≤ s.params.lineMax := by
      have := h.lineFits
      simp only [List.length_append, List.length_singleton]
      omega
    exact { h with lineFits := hfits }

/-- Every instruction keeps R23: only the framer, the checker, the line and `RESET` write what it speaks of. -/
theorem exec_keeps_stateInv {i : Instr} {s t : State} (h : StateInv s) (hst : exec i s = .next t) : StateInv t := by
  cases i with
  | reset =>
    cases execReset_next.1 hst
    exact (stateInv_resetWith h.lineMaxLegal s.tx s.inbox).respond 0
  | rd r =>
    rcases execRd_next.1 hst with ⟨v, -, rfl⟩ | ⟨-, rfl⟩
    · exact h.respond v
    · exact h.takeFault _
  | txStart m => exact execTxStart_keeps h hst
  | txByte b => exact execTxByte_keeps h hst
  | ckStart => exact h.of_completion hst h.ckStartState
  | ckByte b => exact execCkByte_keeps h hst
  | lnClear => exact h.of_completion hst { h with lineFits := Nat.zero_le _ }
  | lnByte b => exact execLnByte_keeps h hst
  | crcInit | crcByte | crcCmp | lnResp | lnStat | keyLoad | keyClr | xSync =>
    exact h.of_completion hst (h.of_sequencing_eq rfl)
  | xByte b =>
    refine h.of_lock ?_ (execXByte_next.1 hst)
    rintro (⟨-, rfl⟩ | ⟨-, rfl⟩)
    · exact h.takeFault _
    · exact h.of_sequencing_eq rfl
  | xGrp w =>
    refine h.of_lock ?_ (execXGrp_next.1 hst)
    rintro (⟨-, rfl⟩ | ⟨-, rfl⟩)
    · exact h.takeFault _
    · exact h.respond _
  | pktComd | pktHead | pktData | pktPass | pktResp => exact ckFeed_keeps h hst

theorem runInput_keeps_stateInv {x : Input} {s t : State} (h : StateInv s) (hst : runInput x s = .next t) :
    StateInv t := by
  rcases runInput_cases hst with ⟨i, -, hi⟩ | ⟨cmd, e, -, -, rfl⟩ | ⟨bytes, e, -, -, hfeed⟩
  · exact exec_keeps_stateInv h hi
  · exact h.takeFault _
  · exact ckFeed_keeps h hfeed

/-- Settles O50: taking an input from the inbox keeps R23, and so does every input run. -/
theorem stepKeepsInvariant : Obligations.StepKeepsInvariant := by
  intro s t h hst
  rcases step_cases hst with ⟨-, rfl⟩ | ⟨x, rest, -, hrun⟩
  · exact h
  · exact runInput_keeps_stateInv (h.withInbox rest) hrun

/-- Settles O49: at power-on both counters are zero with both phases idle, the line is empty and `LINE_MAX` is 64. -/
theorem invariantAtReset : Obligations.InvariantAtReset :=
  stateInv_resetWith (p := State.reset.params) (by decide) [] []

/-- The values of R33 stand in every component but `TX`, whatever the model's own fields hold. -/
theorem atReset_resetWith (p : Params) (tx : List Byte) (resp : Option Response) (inbox : List Input) :
    AtReset { State.reset with params := p, tx := tx, resp := resp, inbox := inbox } := by
  constructor <;> rfl

/-- Settles O1: `RESET` completes in every state and takes all but the model's own fields and `TX` from R33. -/
theorem resetValues : Obligations.ResetValues :=
  ⟨atReset_resetWith _ _ _ _, rfl, fun _ => ⟨_, execReset_next.2 rfl, atReset_resetWith _ _ _ _, rfl⟩⟩

end Sys2Proof.Machine
end

section
/-! PROOF. The `STATUS` word (spec/10_state.md R29): its fields stand in disjoint bits, so the word is their sum. -/

namespace Sys2Proof.Machine

/-- The low `k` bits of a word hold the number `n`, and the others are zero. -/
structure Packed (a : Word) (k n : Nat) : Prop where
  toNat_eq : a.toNat = n
  lt : n < 2 ^ k

theorem Packed.of_lt {a : Word} {k : Nat} (h : a.toNat < 2 ^ k) : Packed a k a.toNat := ⟨rfl, h⟩

/-- A field put above the bits in use adds its code times the weight of its lowest bit. -/
theorem Packed.join {a f : Word} {k n : Nat} (h : Packed a k n) (w : Nat) (hf : f.toNat < 2 ^ w) (hw : k + w ≤ 32) :
    Packed (a ||| f <<< k) (k + w) (n + 2 ^ k * f.toNat) := by
  obtain ⟨rfl, hlt⟩ := h
  have hbound : a.toNat + 2 ^ k * f.toNat < 2 ^ (k + w) := by
    calc a.toNat + 2 ^ k * f.toNat < 2 ^ k * (f.toNat + 1) := by rw [Nat.mul_add]; omega
      _ ≤ 2 ^ k * 2 ^ w := Nat.mul_le_mul_left _ hf
      _ = 2 ^ (k + w) := (pow_add 2 k w).symm
  have hshift : (f <<< k).toNat = f.toNat <<< k := by
    have hle : 2 ^ (k + w) ≤ 2 ^ 32 := Nat.pow_le_pow_right (by decide) hw
    rw [BitVec.toNat_shiftLeft, Nat.shiftLeft_eq, Nat.mul_comm]
    exact Nat.mod_eq_of_lt (by omega)
  refine ⟨?_, hbound⟩
  rw [BitVec.toNat_or, hshift, Nat.or_comm, ← Nat.shiftLeft_add_eq_or_of_lt hlt, Nat.shiftLeft_eq]
  ring

theorem bitWord_lt (b : Bool) : (bitWord b).toNat < 2 ^ 1 := by cases b <;> decide

theorem TxState.code_lt (x : TxState) : x.code.toNat < 2 ^ 1 := by cases x <;> decide

theorem CkState.code_lt (x : CkState) : x.code.toNat < 2 ^ 2 := by cases x <;> decide

theorem ckresCode_lt (r : Option CkVerdict) : (ckresCode r).toNat < 2 ^ 2 := by
  rcases r with _ | ⟨_ | _ | _⟩ <;> decide

theorem ckkindCode_lt (m : Option Magic) : (ckkindCode m).toNat < 2 ^ 3 := by
  rcases m with _ | ⟨_ | _ | _ | _ | _⟩ <;> decide

theorem rclassCode_lt (c : Option RespClass) : (rclassCode c).toNat < 2 ^ 3 := by
  rcases c with _ | ⟨_ | _ | _ | _⟩ <;> decide

theorem sclassCode_lt (c : Option StatusClass) : (sclassCode c).toNat < 2 ^ 2 := by
  rcases c with _ | ⟨_ | _ | _⟩ <;> decide

theorem kidxWord_toNat (k : BitVec 2) : (k.setWidth 32).toNat = k.toNat :=
  BitVec.toNat_setWidth_of_le (by decide)

/-- `STATUS` is the sum of its fields' codes, each by the weight of its lowest bit (R29). -/
theorem statusWord_packed (s : State) :
    Packed (statusWord s) 18
      ((bitWord s.faulted).toNat + 2 * (bitWord s.crcok).toNat + 4 * (bitWord s.keyv).toNat + 8 * s.kidx.toNat +
        32 * s.txst.code.toNat + 64 * s.ckst.code.toNat + 256 * (ckresCode s.ckres).toNat +
        1024 * (ckkindCode s.ckkind).toNat + 8192 * (rclassCode s.rclass).toNat +
        65536 * (sclassCode s.sclass).toNat) := by
  have hkidx : (s.kidx.setWidth 32).toNat < 2 ^ 2 := (kidxWord_toNat s.kidx).trans_lt s.kidx.isLt
  have h := Packed.of_lt (bitWord_lt s.faulted)
    |>.join 1 (bitWord_lt s.crcok) (by decide)
    |>.join 1 (bitWord_lt s.keyv) (by decide)
    |>.join 2 hkidx (by decide)
    |>.join 1 s.txst.code_lt (by decide)
    |>.join 2 s.ckst.code_lt (by decide)
    |>.join 2 (ckresCode_lt s.ckres) (by decide)
    |>.join 3 (ckkindCode_lt s.ckkind) (by decide)
    |>.join 3 (rclassCode_lt s.rclass) (by decide)
    |>.join 2 (sclassCode_lt s.sclass) (by decide)
  rw [kidxWord_toNat] at h
  exact h

/-- Settles O4: the codes of the fields are the numbers of R22 and R25, field by field. -/
theorem statusLayout : Obligations.StatusLayout := by
  intro s
  have h := statusWord_packed s
  refine ⟨?_, h.toNat_eq.trans_lt h.lt⟩
  rw [h.toNat_eq]
  refine congrArg₂ (· + ·) (congrArg₂ (· + ·) (congrArg₂ (· + ·) (congrArg₂ (· + ·) (congrArg₂ (· + ·)
    (congrArg₂ (· + ·) (congrArg₂ (· + ·) (congrArg₂ (· + ·) (congrArg₂ (· + ·) ?faulted ?crcok) ?keyv) rfl)
      ?txst) ?ckst) ?ckres) ?ckkind) ?rclass) ?sclass
  case faulted => cases s.faulted <;> rfl
  case crcok => cases s.crcok <;> rfl
  case keyv => cases s.keyv <;> rfl
  case txst => cases s.txst <;> rfl
  case ckst => cases s.ckst <;> rfl
  case ckres => rcases s.ckres with _ | ⟨_ | _ | _⟩ <;> rfl
  case ckkind => rcases s.ckkind with _ | ⟨_ | _ | _ | _ | _⟩ <;> rfl
  case rclass => rcases s.rclass with _ | ⟨_ | _ | _ | _⟩ <;> rfl
  case sclass => rcases s.sclass with _ | ⟨_ | _ | _⟩ <;> rfl

end Sys2Proof.Machine
end

section
/-! PROOF. What an operation writes (spec/10_state.md R30): the components of its row, or a fault's two components. -/

namespace Sys2Proof.Machine

/-- From `s` to `t` no component outside the row is written, and none of the model's own fields but the response. -/
structure WritesWithin (row : List Component) (s t : State) : Prop where
  params : t.params = s.params
  inbox : t.inbox = s.inbox
  others : ∀ c ∉ row, SameComponent c s t

theorem SameComponent.refl (c : Component) (s : State) : SameComponent c s s := by cases c <;> rfl

theorem sameComponent_refuse (c : Component) (s : State) : SameComponent c s (refuse s) := by cases c <;> rfl

theorem sameComponent_respond (c : Component) (ret : Word) (s : State) : SameComponent c s (respond ret s) := by
  cases c <;> rfl

theorem sameComponent_takeFault {c : Component} (herr : c ≠ .err) (hfaulted : c ≠ .faulted) (e : FaultCode) (s : State) :
    SameComponent c s (takeFault e s) := by
  cases c <;> simp_all [SameComponent]

theorem writesWithin_refuse (row : List Component) (s : State) : WritesWithin row s (refuse s) :=
  ⟨rfl, rfl, fun c _ => sameComponent_refuse c s⟩

theorem writesWithin_respond (row : List Component) (ret : Word) (s : State) : WritesWithin row s (respond ret s) :=
  ⟨rfl, rfl, fun c _ => sameComponent_respond c ret s⟩

/-- What is left when an operation answers: a state in which only its row was written, or a fault was raised (R282). -/
def KeepsRow (row : List Component) (s t : State) : Prop := WritesWithin row s t ∨ ∃ e, t = takeFault e s

/-- The lock's refusal writes no component; past it only the operation's own work has to keep to its row. -/
theorem KeepsRow.of_lock {row : List Component} {s t : State} {work : Prop} (hwork : work → KeepsRow row s t)
    (hst : (s.faulted = true ∧ t = refuse s) ∨ (s.faulted = false ∧ work)) : KeepsRow row s t := by
  rcases hst with ⟨-, rfl⟩ | ⟨-, hw⟩
  · exact .inl (writesWithin_refuse row s)
  · exact hwork hw

/-- An operation that completes in every unlocked state. -/
theorem KeepsRow.of_completion {row : List Component} {s u t : State} {ret : Word}
    (hst : unlessLocked s (complete ret u) = .next t) (hu : WritesWithin row s (respond ret u)) : KeepsRow row s t := by
  refine .of_lock ?_ (unlessLocked_next.1 hst)
  rw [complete_next]
  rintro rfl
  exact .inl hu

/-- A byte sent, or a packet opened or closed, writes the framer's components (R152, R153). -/
theorem writesWithin_framer (ret : Word) (bytes : List Byte) (crc : Word) (st : TxState) (owed : Count) (s : State) :
    WritesWithin [.txcrc, .txrem, .txst, .tx] s
      (respond ret (emit bytes { s with txcrc := crc, txst := st, txrem := owed })) :=
  ⟨rfl, rfl, fun c hc => by cases c <;> simp_all [SameComponent]⟩

/-- A feed writes the checker's components (R175). -/
theorem KeepsRow.of_feed {s t : State} (h : SameOutsideChecker s t) :
    KeepsRow [.ckcrc, .ckst, .ckcnt, .cksh, .ckres, .ckkind] s t := by
  rw [h.eq]
  exact .inl ⟨rfl, rfl, fun c hc => by cases c <;> simp_all [SameComponent]⟩

/-- The table of R30, operation by operation. -/
theorem exec_keepsRow {i : Instr} {s t : State} (hst : exec i s = .next t) : KeepsRow (writesOf i) s t := by
  cases i with
  | reset =>
    cases execReset_next.1 hst
    exact .inl ⟨rfl, rfl, fun c hc => by cases c <;> simp [writesOf] at hc⟩
  | rd r =>
    rcases execRd_next.1 hst with ⟨v, -, rfl⟩ | ⟨-, rfl⟩
    · exact .inl (writesWithin_respond _ v s)
    · exact .inr ⟨_, rfl⟩
  | crcInit | crcByte | crcCmp | ckStart | lnClear | lnResp | lnStat | keyLoad | keyClr | xSync =>
    exact .of_completion hst ⟨rfl, rfl, fun c hc => by cases c <;> simp_all [writesOf, SameComponent, ckStartState]⟩
  | txStart m =>
    refine .of_lock ?_ (execTxStart_next.1 hst)
    rintro (⟨-, rfl⟩ | ⟨-, -, rfl⟩ | ⟨k, -, -, rfl⟩)
    · exact .inr ⟨_, rfl⟩
    · exact .inr ⟨_, rfl⟩
    · exact .inl (writesWithin_framer ..)
  | txByte b =>
    refine .of_lock ?_ (execTxByte_next.1 hst)
    rintro (⟨-, rfl⟩ | ⟨-, -, -, rfl⟩ | ⟨-, -, -, rfl⟩)
    · exact .inr ⟨_, rfl⟩
    · exact .inl (writesWithin_framer ..)
    · exact .inl (writesWithin_framer ..)
  | ckByte b =>
    refine .of_lock ?_ (execCkByte_next.1 hst)
    rintro (⟨-, rfl⟩ | ⟨-, -, u, hu, rfl⟩)
    · exact .inr ⟨_, rfl⟩
    · exact .of_feed (sameOutsideChecker_respond _ (ckByteState_outside hu))
  | lnByte b =>
    refine .of_lock ?_ (execLnByte_next.1 hst)
    rintro (⟨-, rfl⟩ | ⟨-, rfl⟩)
    · exact .inr ⟨_, rfl⟩
    · exact .inl ⟨rfl, rfl, fun c hc => by cases c <;> simp_all [writesOf, SameComponent]⟩
  | xByte b =>
    refine .of_lock ?_ (execXByte_next.1 hst)
    rintro (⟨-, rfl⟩ | ⟨-, rfl⟩)
    · exact .inr ⟨_, rfl⟩
    · exact .inl ⟨rfl, rfl, fun c hc => by cases c <;> simp_all [writesOf, SameComponent]⟩
  | xGrp w =>
    refine .of_lock ?_ (execXGrp_next.1 hst)
    rintro (⟨-, rfl⟩ | ⟨-, rfl⟩)
    · exact .inr ⟨_, rfl⟩
    · exact .inl (writesWithin_respond _ _ s)
  | pktComd | pktHead | pktData | pktPass | pktResp => exact .of_feed (ckFeed_outside hst)

/-- No row but that of `RESET` lists what a fault writes (R30). -/
theorem fault_notMem_writesOf {i : Instr} (h : i ≠ .reset) :
    Component.err ∉ writesOf i ∧ Component.faulted ∉ writesOf i := by
  cases i with
  | reset => exact absurd rfl h
  | _ => simp [writesOf]

/-- Settles O44: an operation keeps to its row, or a fault writes `ERR` and `FAULTED` and its response is no completion. -/
theorem operationsWriteOnlyTheirRow : Obligations.OperationsWriteOnlyTheirRow := by
  intro i s t hst
  rcases exec_keepsRow hst with hrow | ⟨e, rfl⟩
  · refine ⟨hrow.params, hrow.inbox, fun c hc _ _ => hrow.others c hc, fun hi _ => ?_⟩
    obtain ⟨herr, hfaulted⟩ := fault_notMem_writesOf hi
    exact ⟨(hrow.others _ herr).symm, (hrow.others _ hfaulted).symm⟩
  · refine ⟨takeFault_params e s, takeFault_inbox e s, fun c _ herr hfaulted =>
      sameComponent_takeFault herr hfaulted e s, fun _ hresp => ?_⟩
    obtain ⟨ret, hret⟩ := hresp
    simp [takeFault_resp, answered] at hret

end Sys2Proof.Machine
end

section
/-! PROOF. The units share no state (spec/10_state.md R31): what an operation of a unit does is a function of that unit's
components and the parameters, and it writes that unit's components alone. -/

namespace Sys2Proof.Machine

/-- `s` with a unit's components taken from `v` (R31). -/
def withUnit (u : BlockUnit) (v s : State) : State :=
  match u with
  | .system => s
  | .crc => { s with crc := v.crc, crcok := v.crcok }
  | .framer => { s with txcrc := v.txcrc, txst := v.txst, txrem := v.txrem, tx := v.tx }
  | .checker => { s with ckcrc := v.ckcrc, ckst := v.ckst, ckcnt := v.ckcnt, cksh := v.cksh, ckres := v.ckres,
                         ckkind := v.ckkind }
  | .line => { s with ln := v.ln, rclass := v.rclass, rval := v.rval, sclass := v.sclass }
  | .cipher => { s with key := v.key, keyv := v.keyv, kidx := v.kidx }

/-! ### What `withUnit` leaves -/

@[simp] theorem withUnit_params (u : BlockUnit) (v s : State) : (withUnit u v s).params = s.params := by cases u <;> rfl
@[simp] theorem withUnit_faulted (u : BlockUnit) (v s : State) : (withUnit u v s).faulted = s.faulted := by
  cases u <;> rfl

theorem SameUnit.refl (u : BlockUnit) (s : State) : SameUnit u s s := by cases u <;> simp [SameUnit]

@[simp] theorem sameUnit_respond {u : BlockUnit} {ret : Word} {s t : State} :
    SameUnit u s (respond ret t) ↔ SameUnit u s t := by cases u <;> rfl

@[simp] theorem respond_sameUnit {u : BlockUnit} {ret : Word} {s t : State} :
    SameUnit u (respond ret s) t ↔ SameUnit u s t := by cases u <;> rfl

@[simp] theorem sameUnit_takeFault {u : BlockUnit} {e : FaultCode} {s t : State} :
    SameUnit u s (takeFault e t) ↔ SameUnit u s t := by cases u <;> simp [SameUnit]

@[simp] theorem takeFault_sameUnit {u : BlockUnit} {e : FaultCode} {s t : State} :
    SameUnit u (takeFault e s) t ↔ SameUnit u s t := by cases u <;> simp [SameUnit]

theorem sameUnit_withUnit (u : BlockUnit) (v s : State) : SameUnit u v (withUnit u v s) := by
  cases u <;> simp [SameUnit, withUnit]

theorem withUnit_sameUnit (u : BlockUnit) (v s t : State) : SameUnit u (withUnit u v s) (withUnit u v t) := by
  cases u <;> simp [SameUnit, withUnit]

/-- The components of different units are disjoint, pair by pair. -/
theorem sameUnit_withUnit_of_ne {u u' : BlockUnit} (h : u' ≠ u) (v s : State) : SameUnit u' s (withUnit u v s) := by
  cases u <;> cases u' <;> simp [SameUnit, withUnit] at h ⊢

theorem withUnit_comm {u u' : BlockUnit} (h : u ≠ u') (v w s : State) :
    withUnit u v (withUnit u' w s) = withUnit u' w (withUnit u v s) := by
  cases u <;> cases u' <;> simp [withUnit] at h ⊢

theorem withUnit_eq_self {u : BlockUnit} {s t : State} (h : SameUnit u s t) : withUnit u s t = t := by
  cases u <;> simp_all [SameUnit, withUnit]

theorem withUnit_withUnit (u : BlockUnit) (v w s : State) : withUnit u v (withUnit u w s) = withUnit u v s := by
  cases u <;> rfl

theorem withUnit_respond (u : BlockUnit) (v s : State) (ret : Word) :
    withUnit u v (respond ret s) = respond ret (withUnit u v s) := by cases u <;> rfl

theorem respond_respond (r r' : Word) (s : State) : respond r (respond r' s) = respond r s := rfl

/-! ### What an operation does in every state that looks the same to its unit -/

/-- To a unit, `t` looks as `s` does: the block is not faulted, and its parameters and the unit's components are those
of `s`. -/
structure LooksAs (u : BlockUnit) (s t : State) : Prop where
  unfaulted : t.faulted = false
  params : t.params = s.params
  same : SameUnit u s t

theorem LooksAs.refl (u : BlockUnit) {s : State} (h : s.faulted = false) : LooksAs u s s := ⟨h, rfl, .refl u s⟩

/-- An operation of another unit that completed is not seen. -/
theorem LooksAs.of_other {u u' : BlockUnit} (h : u' ≠ u) {s : State} (hf : s.faulted = false) (ret : Word) (v : State) :
    LooksAs u' s (respond ret (withUnit u v s)) :=
  ⟨by simp [hf], by simp, by simpa using sameUnit_withUnit_of_ne h v s⟩

/-- Wherever it looks as in `s` to its unit, the operation completes with `ret` and leaves the unit as in `v`. -/
def CompletesAs (i : Instr) (s : State) (ret : Word) (v : State) : Prop :=
  ∀ t, LooksAs (unitOf i) s t → exec i t = .next (respond ret (withUnit (unitOf i) v t))

/-- Wherever it looks as in `s` to its unit, the operation raises `e`. -/
def FaultsAs (i : Instr) (s : State) (e : FaultCode) : Prop :=
  ∀ t, LooksAs (unitOf i) s t → exec i t = .next (takeFault e t)

/-- What an operation does is settled by what its unit sees. -/
def Local (i : Instr) (s : State) : Prop := (∃ ret v, CompletesAs i s ret v) ∨ ∃ e, FaultsAs i s e

/-! ### The checker -/

/-- The three phases of `CK.BYTE` read and write the checker's components (R173). -/
theorem ckMagicByte_withUnit (b : Byte) (s t : State) :
    ckMagicByte b (withUnit .checker s t) = withUnit .checker (ckMagicByte b s) t := by
  by_cases h : s.ckcnt - 1 = 0
  · simp only [ckMagicByte, withUnit, h, if_true]
    cases Magic.ofNumber (shiftIn s.cksh b) <;> rfl
  · simp only [ckMagicByte, withUnit, h, if_false]

theorem ckPayloadByte_withUnit (b : Byte) (s t : State) :
    ckPayloadByte b (withUnit .checker s t) = withUnit .checker (ckPayloadByte b s) t := by
  by_cases h : s.ckcnt - 1 = 0
  · simp only [ckPayloadByte, withUnit, h, if_true]
  · simp only [ckPayloadByte, withUnit, h, if_false]

theorem ckTrailerByte_withUnit (b : Byte) (s t : State) :
    ckTrailerByte b (withUnit .checker s t) = withUnit .checker (ckTrailerByte b s) t := by
  by_cases h : s.ckcnt - 1 = 0
  · simp only [ckTrailerByte, withUnit, h, if_true]
    rfl
  · simp only [ckTrailerByte, withUnit, h, if_false]

theorem ckByteState_withUnit (b : Byte) (s t : State) :
    ckByteState b (withUnit .checker s t) = (ckByteState b s).map (withUnit .checker · t) := by
  have hphase : (withUnit .checker s t).ckst = s.ckst := rfl
  unfold ckByteState
  rw [hphase]
  cases s.ckst with
  | idle => rfl
  | magic => exact congrArg some (ckMagicByte_withUnit b s t)
  | payload => exact congrArg some (ckPayloadByte_withUnit b s t)
  | trailer => exact congrArg some (ckTrailerByte_withUnit b s t)

/-- A byte of a check in progress does the same wherever the checker is the same (R173). -/
theorem execCkByte_of_sameUnit {b : Byte} {s t u : State} (ho : s.ckst ≠ .idle) (h0 : s.ckcnt ≠ 0)
    (hu : ckByteState b s = some u) (hf : t.faulted = false) (h : SameUnit .checker s t) :
    execCkByte b t = .next (respond (ckresCode u.ckres) (withUnit .checker u t)) := by
  have hut : ckByteState b t = some (withUnit .checker u t) := by
    have hmap := ckByteState_withUnit b s t
    rwa [withUnit_eq_self h, hu] at hmap
  obtain ⟨-, hst, hcnt, -⟩ := h
  exact execCkByte_next.2 (.inr ⟨hf, .inr ⟨hst ▸ ho, hcnt ▸ h0, _, hut, rfl⟩⟩)

theorem returnedZero_respond {r : Word} {t : State} : returnedZero (respond r t) = true ↔ r = 0 := by
  simp [returnedZero]

/-- The bytes of a feed do the same wherever the checker is the same, up to the response the feed starts from. -/
theorem ckFeedBytes_of_sameUnit (bytes : List Byte) {s : State} (hs : Checking s) (r : Word) :
    ∃ ret v, ∀ t, t.faulted = false → SameUnit .checker s t →
      ckFeedBytes bytes (respond r t) = .next (respond ret (withUnit .checker v t)) := by
  induction bytes generalizing s r with
  | nil => exact ⟨r, s, fun t _ h => by rw [withUnit_eq_self h]; rfl⟩
  | cons b rest ih =>
    obtain ⟨u, hu, -, -, hgo⟩ := execCkByte_checking b hs
    have hbyte : ∀ t, t.faulted = false → SameUnit .checker s t →
        execCkByte b (respond r t) = .next (respond (ckresCode u.ckres) (withUnit .checker u t)) := by
      intro t hf h
      have hr : (respond r t).faulted = false := hf
      rw [execCkByte_of_sameUnit hs.open' hs.expected hu hr (sameUnit_respond.2 h), withUnit_respond, respond_respond]
    have hzero : ∀ t, returnedZero (respond (ckresCode u.ckres) t) = true ↔ u.ckres = none := fun t =>
      returnedZero_respond.trans ckresCode_eq_zero
    by_cases hv : u.ckres = none
    · obtain ⟨hunf, hopen, hexp, -⟩ := hgo hv
      obtain ⟨ret, v, hrest⟩ := ih ⟨hunf, hopen, hexp, hv⟩ (ckresCode u.ckres)
      refine ⟨ret, v, fun t hf h => ?_⟩
      rw [ckFeedBytes_cons, hbyte t hf h]
      simp only [(hzero _).2 hv, if_true]
      rw [hrest _ (by simpa using hf) (sameUnit_withUnit .checker u t), withUnit_withUnit]
    · refine ⟨ckresCode u.ckres, u, fun t hf h => ?_⟩
      rw [ckFeedBytes_cons, hbyte t hf h]
      exact if_neg (mt (hzero _).1 hv)

theorem withUnit_ckStartState (s t : State) : withUnit .checker (ckStartState s) t = ckStartState t := rfl

/-- A feed restarts the checker, so it does the same in every block that is not faulted (R175). -/
theorem ckFeed_of_unfaulted (bytes : List Byte) :
    ∃ ret v, ∀ t, t.faulted = false → ckFeed bytes t = .next (respond ret (withUnit .checker v t)) := by
  have hstart : Checking (respond 0 (ckStartState State.reset)) := checking_ckStartState rfl 0
  obtain ⟨ret, v, hbytes⟩ := ckFeedBytes_of_sameUnit bytes hstart 0
  refine ⟨ret, v, fun t hf => ckFeed_next.2 (.inr ⟨hf, ?_⟩)⟩
  have hsame : SameUnit .checker (respond 0 (ckStartState State.reset)) (ckStartState t) :=
    respond_sameUnit.2 (sameUnit_withUnit .checker (ckStartState State.reset) t)
  rw [hbytes (ckStartState t) hf hsame, ← withUnit_ckStartState t t, withUnit_withUnit]

/-! ### Every operation of a unit -/

/-- An operation that completes in every unlocked state, if its result and what it leaves of its unit are the same
wherever its unit looks the same. -/
theorem Local.of_update {i : Instr} {s : State} {ret : State → Word} {f : State → State}
    (hi : ∀ t, exec i t = unlessLocked t (complete (ret t) (f t)))
    (hloc : ∀ t, LooksAs (unitOf i) s t → ret t = ret s ∧ f t = withUnit (unitOf i) (f s) t) : Local i s := by
  refine .inl ⟨ret s, f s, fun t ht => ?_⟩
  obtain ⟨hret, hf⟩ := hloc t ht
  rw [hi, unlessLocked_of_unfaulted ht.unfaulted, hret, hf]
  rfl

theorem Local.of_feed {i : Instr} {s : State} {bytes : List Byte} (hi : ∀ t, exec i t = ckFeed bytes t)
    (hu : unitOf i = .checker) : Local i s := by
  obtain ⟨ret, v, hfeed⟩ := ckFeed_of_unfaulted bytes
  refine .inl ⟨ret, v, fun t ht => ?_⟩
  rw [hi, hu]
  exact hfeed t ht.unfaulted

/-- What an operation can do in a block that is not locked. -/
theorem of_unlocked {s a : State} {work : Prop} (hf : s.faulted = false)
    (h : (s.faulted = true ∧ a = refuse s) ∨ (s.faulted = false ∧ work)) : work := by
  simpa [hf] using h

theorem execTxStart_local {m : Word} {s a : State} (hf : s.faulted = false) (h : execTxStart m s = .next a) :
    Local (.txStart m) s := by
  rcases of_unlocked hf (execTxStart_next.1 h) with ⟨hp, -⟩ | ⟨hi, hm, -⟩ | ⟨k, hi, hm, -⟩
  · refine .inr ⟨.errSeq, ?_⟩
    rintro t ⟨ht, -, -, htxst, -⟩
    exact execTxStart_next.2 (.inr ⟨ht, .inl ⟨htxst ▸ hp, rfl⟩⟩)
  · refine .inr ⟨.errMagic, ?_⟩
    rintro t ⟨ht, -, -, htxst, -⟩
    exact execTxStart_next.2 (.inr ⟨ht, .inr (.inl ⟨htxst ▸ hi, hm, rfl⟩)⟩)
  · refine .inl ⟨k.plenCount.setWidth 32,
      emit (be32 m) { s with txcrc := crc32Mpeg2 (be32 m), txrem := k.plenCount, txst := .payload }, ?_⟩
    rintro t ⟨ht, -, -, htxst, -, htx⟩
    refine execTxStart_next.2 (.inr ⟨ht, .inr (.inr ⟨k, htxst ▸ hi, hm, ?_⟩)⟩)
    simp only [withUnit, unitOf, emit, htx]

theorem execTxByte_local {b : Byte} {s a : State} (hf : s.faulted = false) (h : execTxByte b s = .next a) :
    Local (.txByte b) s := by
  rcases of_unlocked hf (execTxByte_next.1 h) with ⟨hi, -⟩ | ⟨hp, h0, h1, -⟩ | ⟨hp, h0, h1, -⟩
  · refine .inr ⟨.errSeq, ?_⟩
    rintro t ⟨ht, -, -, htxst, -⟩
    exact execTxByte_next.2 (.inr ⟨ht, .inl ⟨htxst ▸ hi, rfl⟩⟩)
  · refine .inl ⟨0, emit (b :: be32 (crcStep s.txcrc b))
      { s with txcrc := crcStep s.txcrc b, txrem := 0, txst := .idle }, ?_⟩
    rintro t ⟨ht, -, hcrc, htxst, hrem, htx⟩
    refine execTxByte_next.2 (.inr ⟨ht, .inr (.inl ⟨htxst ▸ hp, hrem ▸ h0, hrem ▸ h1, ?_⟩)⟩)
    simp only [withUnit, unitOf, emit, hcrc, htx]
  · refine .inl ⟨(s.txrem - 1).setWidth 32,
      emit [b] { s with txcrc := crcStep s.txcrc b, txrem := s.txrem - 1 }, ?_⟩
    rintro t ⟨ht, -, hcrc, htxst, hrem, htx⟩
    refine execTxByte_next.2 (.inr ⟨ht, .inr (.inr ⟨htxst ▸ hp, hrem ▸ h0, hrem ▸ h1, ?_⟩)⟩)
    simp only [withUnit, unitOf, emit, hcrc, htxst, hrem, htx]

theorem execCkByte_local {b : Byte} {s a : State} (hf : s.faulted = false) (h : execCkByte b s = .next a) :
    Local (.ckByte b) s := by
  rcases of_unlocked hf (execCkByte_next.1 h) with ⟨hi, -⟩ | ⟨ho, h0, u, hu, -⟩
  · refine .inr ⟨.errSeq, ?_⟩
    rintro t ⟨ht, -, -, hckst, -⟩
    exact execCkByte_next.2 (.inr ⟨ht, .inl ⟨hckst ▸ hi, rfl⟩⟩)
  · exact .inl ⟨ckresCode u.ckres, u, fun t ht => execCkByte_of_sameUnit ho h0 hu ht.unfaulted ht.same⟩

theorem execLnByte_local (b : Byte) (s : State) : Local (.lnByte b) s := by
  by_cases hfull : s.ln.length = s.params.lineMax
  · refine .inr ⟨.errOvf, ?_⟩
    rintro t ⟨ht, hp, hln, -⟩
    exact execLnByte_next.2 (.inr ⟨ht, .inl ⟨by rw [← hln, hp, hfull], rfl⟩⟩)
  · refine .inl ⟨lengthWord (s.ln.length + 1), { s with ln := s.ln ++ [b] }, ?_⟩
    rintro t ⟨ht, hp, hln, hrclass, hrval, hsclass⟩
    refine execLnByte_next.2 (.inr ⟨ht, .inr ⟨by rwa [← hln, hp], ?_⟩⟩)
    simp only [withUnit, unitOf, hln, hrclass, hrval, hsclass]

theorem execXByte_local (b : Byte) (s : State) : Local (.xByte b) s := by
  cases hv : s.keyv with
  | false =>
    refine .inr ⟨.errKey, ?_⟩
    rintro t ⟨ht, -, -, hkeyv, -⟩
    exact execXByte_next.2 (.inr ⟨ht, .inl ⟨hkeyv ▸ hv, rfl⟩⟩)
  | true =>
    refine .inl ⟨(b ^^^ keyByte s.key s.kidx.toNat).setWidth 32, { s with kidx := s.kidx + 1 }, ?_⟩
    rintro t ⟨ht, -, hkey, hkeyv, hkidx⟩
    refine execXByte_next.2 (.inr ⟨ht, .inr ⟨hkeyv ▸ hv, ?_⟩⟩)
    simp only [withUnit, unitOf, hkey, hkeyv, hkidx]

theorem execXGrp_local (w : Word) (s : State) : Local (.xGrp w) s := by
  cases hv : s.keyv with
  | false =>
    refine .inr ⟨.errKey, ?_⟩
    rintro t ⟨ht, -, -, hkeyv, -⟩
    exact execXGrp_next.2 (.inr ⟨ht, .inl ⟨hkeyv ▸ hv, rfl⟩⟩)
  | true =>
    refine .inl ⟨w ^^^ s.key, s, ?_⟩
    rintro t ⟨ht, -, hkey, hkeyv, hkidx⟩
    refine execXGrp_next.2 (.inr ⟨ht, .inr ⟨hkeyv ▸ hv, ?_⟩⟩)
    simp only [withUnit, unitOf, hkey, hkeyv, hkidx]

/-- What an operation of a unit does, in a block that is not faulted and where it answers, is settled by what its unit
sees. -/
theorem exec_local {i : Instr} {s a : State} (hu : unitOf i ≠ .system) (hf : s.faulted = false)
    (h : exec i s = .next a) : Local i s := by
  cases i with
  | reset | rd => exact absurd rfl hu
  | crcInit | crcByte | crcCmp | lnClear | lnResp | lnStat | keyLoad | keyClr | xSync =>
    refine .of_update (fun _ => rfl) ?_
    rintro t ⟨-, hp, hsame⟩
    simp_all [SameUnit, unitOf, withUnit]
  | ckStart => exact .of_update (fun _ => rfl) fun t _ => ⟨rfl, rfl⟩
  | txStart m => exact execTxStart_local hf h
  | txByte b => exact execTxByte_local hf h
  | ckByte b => exact execCkByte_local hf h
  | lnByte b => exact execLnByte_local b s
  | xByte b => exact execXByte_local b s
  | xGrp w => exact execXGrp_local w s
  | pktComd | pktHead | pktData | pktPass | pktResp => exact .of_feed (fun _ => rfl) rfl

/-- Settles O45: in both states the operation does what its unit sees, and it writes its unit alone. -/
theorem unitsShareNoState : Obligations.UnitsShareNoState := by
  intro i s s' t hu hf hf' hp hsame h
  have hs : LooksAs (unitOf i) s s := .refl _ hf
  have hs' : LooksAs (unitOf i) s s' := ⟨hf', hp.symm, hsame⟩
  rcases exec_local hu hf h with ⟨ret, v, hdoes⟩ | ⟨e, hdoes⟩
  · cases next_inj (h.symm.trans (hdoes s hs))
    refine ⟨fun u hne => sameUnit_respond.2 (sameUnit_withUnit_of_ne hne v s), _, hdoes s' hs', ?_, rfl, ?_⟩
    · exact respond_sameUnit.2 (sameUnit_respond.2 (withUnit_sameUnit ..))
    · simp [hf, hf']
  · cases next_inj (h.symm.trans (hdoes s hs))
    refine ⟨fun u _ => sameUnit_takeFault.2 (.refl u s), _, hdoes s' hs', ?_, ?_, ?_⟩
    · exact takeFault_sameUnit.2 (sameUnit_takeFault.2 hsame)
    · simp [takeFault_resp, hf, hf']
    · simp

/-- An operation that leaves the block not faulted completed (R282). -/
theorem completesAs_of_unfaulted {i : Instr} {s a : State} (hu : unitOf i ≠ .system) (hf : s.faulted = false)
    (h : exec i s = .next a) (ha : a.faulted = false) :
    ∃ ret v, CompletesAs i s ret v ∧ a = respond ret (withUnit (unitOf i) v s) := by
  rcases exec_local hu hf h with ⟨ret, v, hdoes⟩ | ⟨e, hdoes⟩
  · exact ⟨ret, v, hdoes, next_inj (h.symm.trans (hdoes s (.refl _ hf)))⟩
  · cases next_inj (h.symm.trans (hdoes s (.refl _ hf)))
    simp at ha

/-- Settles O46: neither operation sees the other, and they write different components. -/
theorem operationsOfDifferentUnitsCommute : Obligations.OperationsOfDifferentUnitsCommute := by
  intro i j s a b c d hui huj hne hf hia ha hjb hjc hc hid
  obtain ⟨ri, v, hi, rfl⟩ := completesAs_of_unfaulted hui hf hia ha
  obtain ⟨rj, w, hj, rfl⟩ := completesAs_of_unfaulted huj hf hjc hc
  cases next_inj (hjb.symm.trans (hj _ (.of_other hne.symm hf ri v)))
  cases next_inj (hid.symm.trans (hi _ (.of_other hne hf rj w)))
  refine ⟨rfl, rfl, ?_⟩
  rw [withUnit_respond, withUnit_respond, withUnit_comm hne]
  rfl

end Sys2Proof.Machine
end

section
/-! PROOF. The key (spec/10_state.md R32): no register holds it, no unit but the cipher sees it, and of the cipher's
operations `KEY.LOAD`, `KEY.CLR` and `X.SYNC` do not read it. -/

namespace Sys2Proof.Machine

/-- Another value of the key is seen by the cipher alone. -/
theorem sameUnit_withKey {u : BlockUnit} (h : u ≠ .cipher) (k : Word) (s : State) : SameUnit u s (withKey k s) := by
  cases u with
  | cipher => exact absurd rfl h
  | _ => simp [SameUnit, withKey]

theorem withUnit_withKey {u : BlockUnit} (h : u ≠ .cipher) (v s : State) (k : Word) :
    withUnit u v (withKey k s) = withKey k (withUnit u v s) := by
  cases u with
  | cipher => exact absurd rfl h
  | _ => rfl

theorem takeFault_withKey (e : FaultCode) (k : Word) (s : State) :
    takeFault e (withKey k s) = withKey k (takeFault e s) := by
  cases hf : s.faulted with
  | true => rw [takeFault_of_faulted hf, takeFault_of_faulted (s := withKey k s) hf]; rfl
  | false => rw [takeFault_of_unfaulted hf, takeFault_of_unfaulted (s := withKey k s) hf]; rfl

/-- No register holds the key (R28). -/
theorem registerValue_withKey (k : Word) (s : State) (r : Byte) : registerValue (withKey k s) r = registerValue s r :=
  rfl

/-- The lock refuses every operation of a unit (R284). -/
theorem exec_of_faulted {i : Instr} {s : State} (hu : unitOf i ≠ .system) (hf : s.faulted = true) :
    exec i s = .next (refuse s) := by
  cases i with
  | reset | rd => exact absurd rfl hu
  | pktComd | pktHead | pktData | pktPass | pktResp => exact ckFeed_next.2 (.inl ⟨hf, rfl⟩)
  | _ => exact unlessLocked_of_faulted hf _

/-- The instruction answers alike with another key in the block, and leaves states that differ in `KEY` at most (R32). -/
def KeyBlind (i : Instr) (k : Word) (s t : State) : Prop :=
  ∃ t', exec i (withKey k s) = .next t' ∧ t'.resp = t.resp ∧ withKey 0 t' = withKey 0 t

theorem KeyBlind.of_withKey {i : Instr} {k : Word} {s t : State} (h : exec i (withKey k s) = .next (withKey k t)) :
    KeyBlind i k s t := ⟨_, h, rfl, rfl⟩

theorem KeyBlind.of_faulted {i : Instr} {k : Word} {s t : State} (hu : unitOf i ≠ .system) (hf : s.faulted = true)
    (h : exec i s = .next t) : KeyBlind i k s t := by
  cases next_inj (h.symm.trans (exec_of_faulted hu hf))
  exact .of_withKey (exec_of_faulted (s := withKey k s) hu hf)

/-- A unit that does not hold the key does not see it. -/
theorem KeyBlind.of_unit {i : Instr} {k : Word} {s t : State} (hu : unitOf i ≠ .system) (hc : unitOf i ≠ .cipher)
    (h : exec i s = .next t) : KeyBlind i k s t := by
  cases hf : s.faulted with
  | true => exact .of_faulted hu hf h
  | false =>
    have hs : LooksAs (unitOf i) s (withKey k s) := ⟨hf, rfl, sameUnit_withKey hc k s⟩
    refine .of_withKey ?_
    rcases exec_local hu hf h with ⟨ret, v, hdoes⟩ | ⟨e, hdoes⟩
    · cases next_inj (h.symm.trans (hdoes s (.refl _ hf)))
      rw [hdoes _ hs, withUnit_withKey hc]
      rfl
    · cases next_inj (h.symm.trans (hdoes s (.refl _ hf)))
      rw [hdoes _ hs, takeFault_withKey]

theorem KeyBlind.rd {r : Byte} {k : Word} {s t : State} (h : execRd r s = .next t) : KeyBlind (.rd r) k s t := by
  refine .of_withKey (execRd_next.2 ?_)
  rw [registerValue_withKey]
  rcases execRd_next.1 h with ⟨v, hv, rfl⟩ | ⟨hv, rfl⟩
  · exact .inl ⟨v, hv, rfl⟩
  · exact .inr ⟨hv, (takeFault_withKey ..).symm⟩

/-- An operation of the cipher that completes in every unlocked state, with a result and a state that do not depend on
the key but for `KEY`. -/
theorem KeyBlind.of_update {i : Instr} {k : Word} {s t : State} {ret : State → Word} {f : State → State}
    (hu : unitOf i ≠ .system) (hi : ∀ t, exec i t = unlessLocked t (complete (ret t) (f t)))
    (hret : ret (withKey k s) = ret s) (hf : withKey 0 (f (withKey k s)) = withKey 0 (f s))
    (h : exec i s = .next t) : KeyBlind i k s t := by
  cases hl : s.faulted with
  | true => exact .of_faulted hu hl h
  | false =>
    rw [hi, unlessLocked_of_unfaulted hl, complete_next] at h
    subst h
    have hk : (withKey k s).faulted = false := hl
    refine ⟨_, (hi _).trans (unlessLocked_of_unfaulted hk _), ?_, ?_⟩
    · rw [respond_resp, respond_resp, hret]
    · exact congrArg₂ respond hret hf

/-- Settles O47: `RESET` overwrites the key, `RD` and the other units do not see it, and the cipher's remaining operations
write it or pass it by. -/
theorem keyReachesOnlyTheCipherResults : Obligations.KeyReachesOnlyTheCipherResults := by
  intro i s t k hbyte hgrp h
  change KeyBlind i k s t
  cases i with
  | reset => exact ⟨t, h, rfl, rfl⟩
  | rd r => exact .rd h
  | xByte b => exact absurd rfl (hbyte b)
  | xGrp w => exact absurd rfl (hgrp w)
  | keyLoad | keyClr | xSync => exact .of_update (by simp [unitOf]) (fun _ => rfl) rfl rfl h
  | _ => exact .of_unit (by simp [unitOf]) (by simp [unitOf]) h

end Sys2Proof.Machine
end

section
/-! PROOF. The transmit stream (spec/20_memory.md R60, R61): two operations of the framer write it, and they append. -/

namespace Sys2Proof.Machine

/-- Only an operation with `TX` in its row touches the stream; a fault never does (R30, R282). -/
theorem KeepsRow.tx_eq {row : List Component} {s t : State} (h : KeepsRow row s t) (hrow : Component.tx ∉ row) :
    t.tx = s.tx := by
  rcases h with hwrites | ⟨e, rfl⟩
  · exact (hwrites.others _ hrow).symm
  · exact takeFault_tx e s

theorem execTxStart_tx_prefix {m : Word} {s t : State} (h : execTxStart m s = .next t) : s.tx <+: t.tx := by
  rcases execTxStart_next.1 h with ⟨-, rfl⟩ | ⟨-, ⟨-, rfl⟩ | ⟨-, -, rfl⟩ | ⟨k, -, -, rfl⟩⟩
  · exact List.prefix_rfl
  · rw [takeFault_tx]
  · rw [takeFault_tx]
  · exact List.prefix_append _ (be32 m)

theorem execTxByte_tx_prefix {b : Byte} {s t : State} (h : execTxByte b s = .next t) : s.tx <+: t.tx := by
  rcases execTxByte_next.1 h with ⟨-, rfl⟩ | ⟨-, ⟨-, rfl⟩ | ⟨-, -, -, rfl⟩ | ⟨-, -, -, rfl⟩⟩
  · exact List.prefix_rfl
  · rw [takeFault_tx]
  · exact List.prefix_append _ (b :: be32 (crcStep s.txcrc b))
  · exact List.prefix_append _ [b]

/-- `RESET` keeps the trace (R34, C11), and the other instructions outside the framer do not have it in their row. -/
theorem exec_tx_prefix {i : Instr} {s t : State} (h : exec i s = .next t) : s.tx <+: t.tx := by
  cases i with
  | reset =>
    cases execReset_next.1 h
    exact List.prefix_rfl
  | txStart m => exact execTxStart_tx_prefix h
  | txByte b => exact execTxByte_tx_prefix h
  | _ => rw [(exec_keepsRow h).tx_eq (by simp [writesOf])]

theorem runInput_tx_prefix {x : Input} {s t : State} (h : runInput x s = .next t) : s.tx <+: t.tx := by
  rcases runInput_cases h with ⟨i, -, hi⟩ | ⟨cmd, e, -, -, rfl⟩ | ⟨bytes, e, -, -, hfeed⟩
  · exact exec_tx_prefix hi
  · rw [takeFault_tx]
  · rw [(KeepsRow.of_feed (ckFeed_outside hfeed)).tx_eq (by simp)]

/-- Settles O16: a waiting block emits nothing, and whatever input is taken the stream before begins the stream after.
That `RESET` keeps it too is the model's reading of R34 (log entry 5). -/
theorem transmitStreamOnlyGrows : Obligations.TransmitStreamOnlyGrows := by
  intro s t h
  rcases step_cases h with ⟨-, rfl⟩ | ⟨x, rest, -, hrun⟩
  · exact List.prefix_rfl
  · exact runInput_tx_prefix (s := { s with inbox := rest }) hrun

end Sys2Proof.Machine
end

section
/-! PROOF. Views of one value at two widths (spec/20_memory.md R65): the cipher on a word and on its four bytes, and the
CRC compared as a word and as its four bytes. -/

namespace Sys2Proof.Machine

theorem byteOf_xor (v w : Word) (j : Nat) : byteOf (v ^^^ w) j = byteOf v j ^^^ byteOf w j := by
  simp only [byteOf, BitVec.ushiftRight_xor_distrib, BitVec.setWidth_xor]

/-- The four bytes of a group, each with its key byte, are the bytes of the group's word with the key (R211, R218). -/
theorem fromLe32_xor_keyByte (g0 g1 g2 g3 : Byte) (key : Word) :
    fromLe32 (g0 ^^^ keyByte key 0) (g1 ^^^ keyByte key 1) (g2 ^^^ keyByte key 2) (g3 ^^^ keyByte key 3) =
      fromLe32 g0 g1 g2 g3 ^^^ key := by
  obtain ⟨h3, h2, h1, h0⟩ := byteOf_fromBe32 g3 g2 g1 g0
  rw [← fromLe32_byteOf (fromLe32 g0 g1 g2 g3 ^^^ key)]
  simp only [byteOf_xor, fromLe32_eq_fromBe32 g0 g1 g2 g3, h0, h1, h2, h3, keyByte, Nat.reduceMod]

/-- `X.BYTE` of each byte of a buffer, from stream index `i`: the responses are the stream transform's bytes, `KIDX`
counts them modulo 4, and nothing else changes (R210, R217). -/
theorem runResponses_xByte (data : List Byte) {s : State} {i : Nat} (hf : s.faulted = false) (hv : s.keyv = true)
    (hi : s.kidx = BitVec.ofNat 2 i) :
    ∃ r, runResponses (data.map .xByte) s =
      some ({ s with kidx := BitVec.ofNat 2 (i + data.length), resp := r },
        (xorFrom s.key i data).map fun b => { f := false, ret := b.setWidth 32 }) := by
  induction data generalizing s i with
  | nil => exact ⟨s.resp, by simp [runResponses, xorFrom, ← hi]⟩
  | cons b rest ih =>
    have hkey : keyByte s.key s.kidx.toNat = keyByte s.key i := by simp [keyByte, hi]
    have hstep : exec (.xByte b) s =
        .next (respond ((b ^^^ keyByte s.key i).setWidth 32) { s with kidx := s.kidx + 1 }) :=
      execXByte_next.2 (.inr ⟨hf, .inr ⟨hv, by rw [hkey]⟩⟩)
    have hidx : s.kidx + 1 = BitVec.ofNat 2 (i + 1) := by rw [hi, BitVec.ofNat_add]; rfl
    obtain ⟨r, hrest⟩ := ih (s := respond ((b ^^^ keyByte s.key i).setWidth 32) { s with kidx := s.kidx + 1 })
      (i := i + 1) hf hv hidx
    refine ⟨r, ?_⟩
    simp only [List.map_cons, runResponses, hstep, hrest, Option.map_some, xorFrom, List.length_cons]
    rw [Nat.add_right_comm i 1, ← Nat.add_assoc]
    rfl

/-- `CRC.CMP` answers 1 exactly on the value of `CRC` (R135). -/
theorem bitWord_beq_eq_one {v w : Word} : bitWord (v == w) = 1 ↔ v = w := by
  by_cases h : v = w <;> simp [bitWord, h]

/-- Settles O40: the four responses are those of a buffer of one group at index 0, and `be32` is injective. -/
theorem mixedWidthViewsConsistent : Obligations.MixedWidthViewsConsistent := by
  refine ⟨fun s g0 g1 g2 g3 hf hv hi => ?_, fun s w hf => ?_⟩
  · obtain ⟨r, hbytes⟩ := runResponses_xByte [g0, g1, g2, g3] (i := 0) hf hv hi
    refine ⟨_, _, _, _, _, _, hbytes, execXGrp_next.2 (.inr ⟨hf, .inr ⟨hv, rfl⟩⟩), ?_⟩
    rw [fromLe32_xor_keyByte, respond_resp, answered]
  · refine ⟨_, execCrcCmp_next.2 (.inr ⟨hf, rfl⟩), ?_⟩
    rw [respond_resp, answered, Option.some_inj, Response.mk.injEq, bitWord_beq_eq_one]
    exact ⟨fun ⟨_, h⟩ => congrArg be32 h.symm, fun h => ⟨rfl, (be32_injective h).symm⟩⟩

end Sys2Proof.Machine
end

section
/-! PROOF. The idempotent operations (spec/20_memory.md R68): none writes what it computes from, so a second completion
writes the same, and a refusal or a fault leaves a faulted block whose response is `ERR`, which the lock leaves
as it is. -/

namespace Sys2Proof.Machine

theorem refuse_refuse (s : State) : refuse (refuse s) = refuse s := rfl

/-- A fault answers as the lock does from then on: `f = 1`, `ret = ERR` (R282, R284). -/
theorem refuse_takeFault (e : FaultCode) (s : State) : refuse (takeFault e s) = takeFault e s := by
  cases hf : s.faulted with
  | true => rw [takeFault_of_faulted hf, refuse_refuse]
  | false => rw [takeFault_of_unfaulted hf]; rfl

/-- Issued again in the state it led to, the instruction leads to that same state. -/
def Repeats (i : Instr) (s : State) : Prop := ∀ t, exec i s = .next t → exec i t = .next t

/-- An operation that completes in every unlocked state, if from what it left it completes to the same. -/
theorem Repeats.of_update {i : Instr} {s : State} {ret : State → Word} {f : State → State}
    (hi : ∀ t, exec i t = unlessLocked t (complete (ret t) (f t))) (hf : (f s).faulted = s.faulted)
    (hagain : complete (ret (respond (ret s) (f s))) (f (respond (ret s) (f s))) = .next (respond (ret s) (f s))) :
    Repeats i s := by
  intro t h
  rw [hi, unlessLocked_next] at h
  rcases h with ⟨hl, rfl⟩ | ⟨hu, h⟩
  · rw [hi, unlessLocked_of_faulted (s := refuse s) hl, refuse_refuse]
  · obtain rfl := complete_next.1 h
    have hu' : (respond (ret s) (f s)).faulted = false := hf.trans hu
    rw [hi, unlessLocked_of_unfaulted hu', hagain]

/-- Which numbers are reserved does not depend on the state (R28). -/
theorem registerValue_eq_none {s : State} {r : Byte} : registerValue s r = none ↔ ¬ r.toNat ≤ 9 := by
  rw [← registerValue_isSome (s := s), Option.not_isSome_iff_eq_none]

/-- No register shows the response port (R28), and a fault of `RD` is not taken twice. -/
theorem Repeats.rd (r : Byte) (s : State) : Repeats (.rd r) s := by
  intro t h
  rcases execRd_next.1 h with ⟨v, hv, rfl⟩ | ⟨hv, rfl⟩
  · exact execRd_next.2 (.inl ⟨v, hv, rfl⟩)
  · have hv' : registerValue (takeFault .errReg s) r = none := registerValue_eq_none.2 (registerValue_eq_none.1 hv)
    refine execRd_next.2 (.inr ⟨hv', ?_⟩)
    rw [takeFault_of_faulted (takeFault_faulted .errReg s), refuse_takeFault]

theorem Repeats.xGrp (w : Word) (s : State) : Repeats (.xGrp w) s := by
  intro t h
  rcases execXGrp_next.1 h with ⟨hl, rfl⟩ | ⟨hu, ⟨hv, rfl⟩ | ⟨hv, rfl⟩⟩
  · exact execXGrp_next.2 (.inl ⟨hl, (refuse_refuse s).symm⟩)
  · exact execXGrp_next.2 (.inl ⟨takeFault_faulted .errKey s, (refuse_takeFault .errKey s).symm⟩)
  · exact execXGrp_next.2 (.inr ⟨hu, .inr ⟨hv, rfl⟩⟩)

/-- Settles O48: each operation of the list completes to the same state twice, or leaves the block to the lock. -/
theorem idempotentOperations : Obligations.IdempotentOperations := by
  intro i s t hi h
  revert t
  change Repeats i s
  cases i with
  | reset =>
    intro t h
    cases execReset_next.1 h
    rfl
  | rd r => exact .rd r s
  | xGrp w => exact .xGrp w s
  | crcInit | crcCmp | ckStart | lnClear | lnResp | lnStat | keyLoad | keyClr | xSync =>
    exact .of_update (fun _ => rfl) rfl rfl
  | _ => simp at hi

end Sys2Proof.Machine
end

section
/-! PROOF. Command words (spec/30_encoding.md R100 to R104): the opcode alone gives the class of the operand, and the
class alone says which immediates are legal and what they mean. -/

namespace Sys2Proof

open Machine

/-- What an opcode's immediate means (R102): nothing for a reserved opcode; else the operation's class, which is N, B (or
R, read alike), or W, with the instruction built from the operand. -/
inductive OperandClass where
  | reserved
  | noOperand (i : Instr)
  | byteOperand (mk : Byte → Instr)
  | wordOperand (mk : Word → Instr)

/-- The class of each opcode (R101). -/
def OperandClass.ofOp (op : Byte) : OperandClass :=
  match op.toNat with
  | 0x01 => .noOperand .reset
  | 0x02 => .byteOperand .rd
  | 0x10 => .noOperand .crcInit
  | 0x11 => .byteOperand .crcByte
  | 0x12 => .wordOperand .crcCmp
  | 0x20 => .wordOperand .txStart
  | 0x21 => .byteOperand .txByte
  | 0x30 => .noOperand .ckStart
  | 0x31 => .byteOperand .ckByte
  | 0x40 => .noOperand .lnClear
  | 0x41 => .byteOperand .lnByte
  | 0x42 => .noOperand .lnResp
  | 0x43 => .noOperand .lnStat
  | 0x50 => .wordOperand .keyLoad
  | 0x51 => .noOperand .keyClr
  | 0x52 => .noOperand .xSync
  | 0x53 => .byteOperand .xByte
  | 0x54 => .wordOperand .xGrp
  | _ => .reserved

/-- What an immediate means in a class (R102, R103). -/
def OperandClass.read (imm : Word) : OperandClass → Except DecodeError Instr
  | .reserved => .error .reservedOp
  | .noOperand i => classN imm i
  | .byteOperand mk => classB imm mk
  | .wordOperand mk => classW imm mk

/-- The bits of the immediate that a class wants zero, as the table's mask has them (R104). -/
def OperandClass.mask : OperandClass → Option Word
  | .reserved => none
  | .noOperand _ => some 0xFFFFFFFF
  | .byteOperand _ => some 0xFFFFFF00
  | .wordOperand _ => some 0

/-- The decoder goes by the opcode's class (R104). -/
theorem decodeCommand_eq_read (cmd : CommandWord) :
    decodeCommand cmd = (OperandClass.ofOp (opOf cmd)).read (immOf cmd) := by
  unfold decodeCommand OperandClass.ofOp
  split <;> simp only [*, OperandClass.read]

theorem decodeCommand_commandWord (op : Byte) (imm : Word) :
    decodeCommand (commandWord op imm) = (OperandClass.ofOp op).read imm := by
  rw [decodeCommand_eq_read, opOf_commandWord, immOf_commandWord]

theorem classN_ok {imm : Word} {i j : Instr} (h : classN imm i = .ok j) : imm = 0 ∧ i = j := by
  unfold classN at h
  split_ifs at h with hz
  cases h
  exact ⟨hz, rfl⟩

/-- A legal immediate of class B or R is its operand's byte (R102). -/
theorem classB_ok {imm : Word} {mk : Byte → Instr} {j : Instr} (h : classB imm mk = .ok j) :
    ∃ b, byteImm b = imm ∧ mk b = j := by
  unfold classB at h
  split_ifs at h with hz
  cases h
  refine ⟨_, BitVec.eq_of_toNat_eq ?_, rfl⟩
  rw [byteImm_toNat, lowByte_eq, BitVec.toNat_ofNat, Nat.mod_eq_of_lt ((highBits_zero_iff imm).1 hz)]

/-- The mask of classes B and R is on the high bits alone (R104). -/
theorem highBits_zero_of_and {imm : Word} (h : imm &&& 0xFFFFFF00 = 0) : imm.extractLsb' 8 24 = 0 := by
  have hmask : (0xFFFFFF00 : Word).extractLsb' 8 24 = BitVec.allOnes 24 := by decide
  calc imm.extractLsb' 8 24 = (imm &&& 0xFFFFFF00).extractLsb' 8 24 := by
        rw [BitVec.extractLsb'_and, hmask, BitVec.and_allOnes]
    _ = 0 := by rw [h]; rfl

/-- In every class but the reserved one, an immediate whose masked bits are zero is legal (R103, R104). -/
theorem OperandClass.read_ok_of_mask {c : OperandClass} {m imm : Word} (hc : c.mask = some m) (h : imm &&& m = 0) :
    ∃ i, c.read imm = .ok i := by
  cases c with
  | reserved => cases hc
  | noOperand i =>
    cases hc
    have himm : imm = 0 := BitVec.and_allOnes.symm.trans h
    exact ⟨i, if_pos himm⟩
  | byteOperand mk =>
    cases hc
    exact ⟨_, if_pos (highBits_zero_of_and h)⟩
  | wordOperand mk => exact ⟨mk imm, rfl⟩

/-- Every row of the table masks the whole opcode, and of the immediate what its opcode's class wants zero (R104). -/
theorem opcodeRows_mask : ∀ row ∈ opcodeRows, opOf row.mask = 0xFF ∧
    (OperandClass.ofOp (opOf row.bits)).mask = some (immOf row.mask) ∧ immOf row.bits = 0 := by
  decide

/-- A word that hits a row is legal. -/
theorem decodeCommand_ok_of_hits {row : OpcodeRow} {cmd : CommandWord} (hrow : row ∈ opcodeRows)
    (h : row.hits cmd = true) : ∃ i, decodeCommand cmd = .ok i := by
  obtain ⟨hop, hmask, hbits⟩ := opcodeRows_mask row hrow
  rw [OpcodeRow.hits_eq, Bool.and_eq_true, beq_iff_eq, beq_iff_eq, hbits, hop] at h
  obtain ⟨himm, hopc⟩ := h
  have hopc' : opOf cmd = opOf row.bits := BitVec.and_allOnes.symm.trans hopc
  rw [decodeCommand_eq_read, hopc']
  exact OperandClass.read_ok_of_mask hmask himm

/-! ### Encoding and decoding a command word -/

/-- An opcode whose class is N (R102). -/
theorem encodesNone_of_class {op : Byte} {i : Instr} (h : OperandClass.ofOp op = .noOperand i) : EncodesNone op i :=
  fun imm => by rw [decodeCommand_commandWord, h]; rfl

/-- An opcode whose class is B or R (R102). -/
theorem encodesByte_of_class {op : Byte} {mk : Byte → Instr} (h : OperandClass.ofOp op = .byteOperand mk) :
    EncodesByte op mk := fun imm => by
  rw [decodeCommand_commandWord, h, OperandClass.read, classB, lowByte_eq]
  exact if_congr (highBits_zero_iff imm) rfl rfl

/-- An opcode whose class is W (R102). -/
theorem encodesWord_of_class {op : Byte} {mk : Word → Instr} (h : OperandClass.ofOp op = .wordOperand mk) :
    EncodesWord op mk :=
  fun imm => by rw [decodeCommand_commandWord, h]; rfl

theorem decode_of_encodesNone {op : Byte} {i : Instr} (h : EncodesNone op i) :
    decode (.command (commandWord op 0)) = .ok i := (h 0).trans (if_pos rfl)

theorem decode_of_encodesByte {op : Byte} {mk : Byte → Instr} (h : EncodesByte op mk) (b : Byte) :
    decode (.command (commandWord op (byteImm b))) = .ok (mk b) := by
  have hb : (byteImm b).toNat < 256 := by rw [byteImm_toNat]; exact b.isLt
  rw [decode, h, if_pos hb, byteImm_toNat, BitVec.ofNat_toNat, BitVec.setWidth_eq]

/-- The encoder gives what a class builds that opcode, and the operand as the immediate (R101, R102). -/
def OperandClass.EncodedBy (op : Byte) : OperandClass → Prop
  | .reserved => True
  | .noOperand i => encode i = .command (commandWord op 0)
  | .byteOperand mk => ∀ b, encode (mk b) = .command (commandWord op (byteImm b))
  | .wordOperand mk => ∀ w, encode (mk w) = .command (commandWord op w)

theorem OperandClass.encodedBy_ofOp (op : Byte) : (OperandClass.ofOp op).EncodedBy op := by
  unfold OperandClass.ofOp
  split
  case h_19 => trivial
  all_goals
    next hop =>
    obtain ⟨-, rfl⟩ := BitVec.toNat_eq_nat.1 hop
    simp [OperandClass.EncodedBy, encode]

/-- A legal command word is the encoding of what it decodes to (R103, R104). -/
theorem encode_of_decodeCommand {cmd : CommandWord} {i : Instr} (h : decodeCommand cmd = .ok i) :
    encode i = .command cmd := by
  rw [decodeCommand_eq_read] at h
  have henc := OperandClass.encodedBy_ofOp (opOf cmd)
  rw [← commandWord_opOf_immOf cmd]
  cases hc : OperandClass.ofOp (opOf cmd) with
  | reserved => rw [hc] at h; cases h
  | noOperand j =>
    rw [hc] at h henc
    obtain ⟨himm, rfl⟩ := classN_ok h
    rw [himm]
    exact henc
  | byteOperand mk =>
    rw [hc] at h henc
    obtain ⟨b, himm, rfl⟩ := classB_ok h
    rw [← himm]
    exact henc b
  | wordOperand mk =>
    rw [hc] at h henc
    cases h
    exact henc (immOf cmd)

end Sys2Proof
end

section
/-! PROOF. Wire packets (spec/30_encoding.md R90 to R98): the magic is read off the first four bytes, and what follows
is a payload of the magic's length and a trailer of four bytes. -/

namespace Sys2Proof

/-- What a magic asks of the bytes after it (R94 to R98). -/
def Magic.decodeBody (rest : List Byte) : Magic → Except DecodeError Instr
  | .comd => decodeShort rest fun p0 p1 p2 p3 crc => .pktComd (fromBe32 p0 p1 p2 p3) crc
  | .head => decodeShort rest fun p0 p1 p2 p3 crc => .pktHead (fromBe32 p0 p1 p2 p3) crc
  | .data => decodeBlock rest
  | .pass => decodeShort rest fun p0 p1 p2 p3 crc => .pktPass p0 p1 p2 p3 crc
  | .resp => decodeShort rest fun p0 p1 p2 p3 crc => .pktResp (fromLe32 p0 p1 p2 p3) crc

/-- Behind a magic the decoder goes by what the magic asks. -/
theorem decodePacket_magic (k : Magic) (rest : List Byte) :
    decodePacket (be32 k.number ++ rest) = k.decodeBody rest := by
  cases k <;> rfl

/-- Whole packets begin with one of the five magics (R90, R91). -/
theorem decodePacket_ok {bytes : List Byte} {i : Instr} (h : decodePacket bytes = .ok i) :
    ∃ (k : Magic) (rest : List Byte), bytes = be32 k.number ++ rest ∧ k.decodeBody rest = .ok i := by
  match bytes with
  | [] | [_] | [_, _] | [_, _, _] => cases h
  | m0 :: m1 :: m2 :: m3 :: rest =>
    cases hm : Magic.ofNumber (fromBe32 m0 m1 m2 m3) with
    | none => simp [decodePacket, hm] at h
    | some k =>
      have hbytes : m0 :: m1 :: m2 :: m3 :: rest = be32 k.number ++ rest := by
        rw [← Magic.ofNumber_eq_some.1 hm, be32_fromBe32]; rfl
      refine ⟨k, rest, hbytes, ?_⟩
      rw [← decodePacket_magic, ← hbytes, h]

theorem decodeShort_ok {rest : List Byte} {mk : Byte → Byte → Byte → Byte → Word → Instr} {i : Instr}
    (h : decodeShort rest mk = .ok i) :
    ∃ p0 p1 p2 p3 crc, rest = [p0, p1, p2, p3] ++ be32 crc ∧ mk p0 p1 p2 p3 crc = i := by
  unfold decodeShort at h
  split at h
  · cases h
    exact ⟨_, _, _, _, _, by rw [be32_fromBe32]; rfl, rfl⟩
  · cases h

theorem decodeBlock_append {block : List Byte} (hb : block.length = 1024) (crc : Word) :
    decodeBlock (block ++ be32 crc) = .ok (.pktData block crc) := by
  unfold decodeBlock
  simp only [List.drop_left' hb, List.take_left' hb, be32, fromBe32_byteOf]

theorem decodeBlock_ok {rest : List Byte} {i : Instr} (h : decodeBlock rest = .ok i) :
    ∃ block crc, block.length = 1024 ∧ rest = block ++ be32 crc ∧ Instr.pktData block crc = i := by
  unfold decodeBlock at h
  split at h
  next c0 c1 c2 c3 hdrop =>
    cases h
    have hlen : rest.length - 1024 = 4 := by simpa using congrArg List.length hdrop
    refine ⟨_, _, ?_, ?_, rfl⟩
    · rw [List.length_take]; omega
    · rw [be32_fromBe32, ← hdrop, List.take_append_drop]
  next => cases h

/-- A packet is read back if what follows its magic is. -/
theorem decode_packetBytes {k : Magic} {payload : List Byte} {crc : Word} {i : Instr}
    (h : k.decodeBody (payload ++ be32 crc) = .ok i) : decode (.packet (packetBytes k payload crc)) = .ok i := by
  rw [decode, packetBytes, List.append_assoc, decodePacket_magic, h]

/-- A whole packet is the encoding of what it decodes to, which is well-formed (R90, R96). -/
theorem encode_of_decodePacket {bytes : List Byte} {i : Instr} (h : decodePacket bytes = .ok i) :
    encode i = .packet bytes ∧ i.wellFormed = true := by
  obtain ⟨k, rest, rfl, hbody⟩ := decodePacket_ok h
  cases k with
  | data =>
    obtain ⟨block, crc, hlen, rfl, rfl⟩ := decodeBlock_ok hbody
    exact ⟨by rw [encode, packetBytes, List.append_assoc], beq_iff_eq.2 hlen⟩
  | comd | head | pass | resp =>
    obtain ⟨p0, p1, p2, p3, crc, rfl, rfl⟩ := decodeShort_ok hbody
    exact ⟨by simp [encode, packetBytes], rfl⟩

end Sys2Proof
end

section
/-! PROOF. The decoder and the encoder are inverse to each other (spec/30_encoding.md R90 to R104), and the decoder agrees
with the opcode table. -/

namespace Sys2Proof

open Machine

/-- Only a packet can be ill-formed (R96). -/
theorem wellFormed_of_encode_command {i : Instr} {cmd : CommandWord} (h : encode i = .command cmd) :
    i.wellFormed = true := by
  cases i with
  | pktData => cases h
  | _ => rfl

theorem decode_encode {i : Instr} (hwf : i.wellFormed = true) : decode (encode i) = .ok i := by
  cases i with
  | reset | crcInit | ckStart | lnClear | lnResp | lnStat | keyClr | xSync =>
    exact decode_of_encodesNone (encodesNone_of_class rfl)
  | rd b | crcByte b | txByte b | ckByte b | lnByte b | xByte b =>
    exact decode_of_encodesByte (encodesByte_of_class rfl) b
  | crcCmp w | txStart w | keyLoad w | xGrp w => exact encodesWord_of_class rfl w
  | pktData block crc => exact decode_packetBytes (k := .data) (decodeBlock_append (beq_iff_eq.1 hwf) crc)
  | pktComd | pktHead | pktPass | pktResp =>
    refine decode_packetBytes ?_
    simp [Magic.decodeBody, decodeShort, be32, le32, fromBe32_byteOf, fromLe32_byteOf]

/-- Settles O54: each class of command words reads its operand back, and each magic its payload and trailer. -/
theorem decodeReadsBackEncode : Obligations.DecodeReadsBackEncode := fun _ => decode_encode

/-- Settles O55: a legal command word has its opcode's one operation and that operation's operand, and a packet its
magic's payload and trailer with no byte over. -/
theorem encodingIsUnique : Obligations.EncodingIsUnique := by
  intro x i h
  cases x with
  | command cmd =>
    have henc := encode_of_decodeCommand h
    exact ⟨henc, wellFormed_of_encode_command henc⟩
  | packet bytes => exact encode_of_decodePacket h

/-- Every instruction's encoding falls in its own row of the table and in no other. -/
theorem Laws.TableRow.all : ∀ i : Instr, Laws.TableRow.Statement i
  | .reset => Laws.TableRow.reset
  | .rd r => Laws.TableRow.rd r
  | .crcInit => Laws.TableRow.crcInit
  | .crcByte b => Laws.TableRow.crcByte b
  | .crcCmp w => Laws.TableRow.crcCmp w
  | .txStart m => Laws.TableRow.txStart m
  | .txByte b => Laws.TableRow.txByte b
  | .ckStart => Laws.TableRow.ckStart
  | .ckByte b => Laws.TableRow.ckByte b
  | .lnClear => Laws.TableRow.lnClear
  | .lnByte b => Laws.TableRow.lnByte b
  | .lnResp => Laws.TableRow.lnResp
  | .lnStat => Laws.TableRow.lnStat
  | .keyLoad k => Laws.TableRow.keyLoad k
  | .keyClr => Laws.TableRow.keyClr
  | .xSync => Laws.TableRow.xSync
  | .xByte b => Laws.TableRow.xByte b
  | .xGrp w => Laws.TableRow.xGrp w
  | .pktComd code crc => Laws.TableRow.pktComd code crc
  | .pktHead size crc => Laws.TableRow.pktHead size crc
  | .pktData block crc => Laws.TableRow.pktData block crc
  | .pktPass p0 p1 p2 p3 crc => Laws.TableRow.pktPass p0 p1 p2 p3 crc
  | .pktResp v crc => Laws.TableRow.pktResp v crc

/-- A legal word hits one row of the table: it is an instruction's encoding. -/
theorem hits_one_of_decodeCommand {cmd : CommandWord} {i : Instr} (h : decodeCommand cmd = .ok i) :
    (opcodeRows.filter (·.hits cmd)).length = 1 := by
  have hrow : Laws.TableRow.rowsOf (.command cmd) = [Laws.TableRow.mnemonic i] :=
    encode_of_decodeCommand h ▸ Laws.TableRow.all i
  rw [← List.length_map (f := OpcodeRow.mnemonic)]
  exact congrArg List.length hrow

theorem hits_none_of_decodeCommand {cmd : CommandWord} {e : DecodeError} (h : decodeCommand cmd = .error e) :
    opcodeRows.filter (·.hits cmd) = [] := by
  rw [List.filter_eq_nil_iff]
  intro row hrow hhit
  obtain ⟨i, hi⟩ := decodeCommand_ok_of_hits hrow hhit
  rw [h] at hi
  cases hi

/-- Settles O56: a legal word hits exactly one row, an illegal one none, and every word is one or the other. -/
theorem decoderAgreesWithOpcodeTable : Obligations.DecoderAgreesWithOpcodeTable := by
  intro cmd
  cases h : decodeCommand cmd with
  | ok i =>
    have hone := hits_one_of_decodeCommand h
    have hne : opcodeRows.filter (·.hits cmd) ≠ [] := List.ne_nil_of_length_pos (by omega)
    exact ⟨iff_of_true ⟨i, rfl⟩ hone, iff_of_false (by simp) hne⟩
  | error e =>
    have hnone := hits_none_of_decodeCommand h
    exact ⟨iff_of_false (by simp) (by simp [hnone]), iff_of_true ⟨e, rfl⟩ hnone⟩

/-- Settles O53: the decoder run on the spec's own examples (R106, R94). -/
theorem workedEncodings : Obligations.WorkedEncodings := by
  unfold Obligations.WorkedEncodings
  decide

/-- Settles O52: with nothing presented the block waits; else the input taken decodes to an instruction or is run as one
that names none. -/
theorem stepRunsTheDecodedInstruction : Obligations.StepRunsTheDecodedInstruction := by
  refine ⟨fun s x rest i hs hi => ?_, fun s cmd rest e hs he => ?_, fun s bytes rest e hs he => ?_,
    fun s => step_of_empty⟩
  · rw [step_of_cons hs, runInput_of_ok hi]
  · rw [step_of_cons hs, runInput_of_error (x := .command cmd) he]
    rfl
  · rw [step_of_cons hs, runInput_of_error (x := .packet bytes) he]
    rfl

end Sys2Proof
end

section
/-! PROOF. A whole packet fed to the checker (spec/43_rx_checker.md R173, R175; spec/47_host_sequences.md R245): the magic
opens the payload, the payload folds into the CRC, and the trailer gives the verdict. -/

namespace Sys2Proof.Machine

/-- A byte of a check in progress that gives no verdict: the feed goes on. -/
theorem ckFeedBytes_of_noVerdict {b : Byte} {s u : State} (h : Checking s) (hu : ckByteState b s = some u)
    (hn : u.ckres = none) (rest : List Byte) : ckFeedBytes (b :: rest) s = ckFeedBytes rest (respond 0 u) := by
  have hb : execCkByte b s = .next (respond 0 u) :=
    execCkByte_next.2 (.inr ⟨h.unfaulted, .inr ⟨h.open', h.expected, u, hu, by rw [hn]; rfl⟩⟩)
  rw [ckFeedBytes_cons, hb]
  exact if_pos (returnedZero_respond.2 rfl)

/-- A byte of a check in progress that gives the verdict: the feed ends there. -/
theorem ckFeedBytes_of_verdict {b : Byte} {s u : State} {v : CkVerdict} (h : Checking s) (hu : ckByteState b s = some u)
    (hv : u.ckres = some v) (rest : List Byte) :
    ckFeedBytes (b :: rest) s = .next (respond (ckresCode (some v)) u) := by
  have hb : execCkByte b s = .next (respond (ckresCode (some v)) u) :=
    execCkByte_next.2 (.inr ⟨h.unfaulted, .inr ⟨h.open', h.expected, u, hu, by rw [hv]⟩⟩)
  have hz : ckresCode (some v) ≠ 0 := mt ckresCode_eq_zero.1 (by simp)
  rw [ckFeedBytes_cons, hb]
  exact if_neg (mt returnedZero_respond.1 hz)

/-- `s` with a check in progress: its phase, the bytes the phase still expects, the CRC so far, the shift register and the
magic recognised. -/
def midCheck (phase : CkState) (left : Count) (crc sh : Word) (kind : Option Magic) (s : State) : State :=
  respond 0 { s with ckst := phase, ckcnt := left, ckcrc := crc, cksh := sh, ckkind := kind, ckres := none }

theorem checking_midCheck {s : State} (hf : s.faulted = false) {phase : CkState} (ho : phase ≠ .idle) {left : Count}
    (h0 : left ≠ 0) (crc sh : Word) (kind : Option Magic) : Checking (midCheck phase left crc sh kind s) :=
  ⟨hf, ho, h0, rfl⟩

/-! ### One byte of each phase (R173) -/

section Bytes
variable {b : Byte} {left : Count} {crc sh : Word} {kind : Option Magic} {s : State}

theorem ckByteState_magic (h : left - 1 ≠ 0) :
    ckByteState b (midCheck .magic left crc sh kind s) =
      some (midCheck .magic (left - 1) (crcStep crc b) (shiftIn sh b) kind s) :=
  congrArg some (if_neg h)

theorem ckByteState_magic_last (h : left - 1 = 0) {k : Magic} (hk : shiftIn sh b = k.number) :
    ckByteState b (midCheck .magic left crc sh kind s) =
      some (midCheck .payload k.plenCount (crcStep crc b) k.number (some k) s) := by
  simp only [ckByteState, ckMagicByte, midCheck, respond, h, hk, if_true, Magic.ofNumber_number]

theorem ckByteState_payload (h : left - 1 ≠ 0) :
    ckByteState b (midCheck .payload left crc sh kind s) =
      some (midCheck .payload (left - 1) (crcStep crc b) sh kind s) :=
  congrArg some (if_neg h)

theorem ckByteState_payload_last (h : left - 1 = 0) :
    ckByteState b (midCheck .payload left crc sh kind s) = some (midCheck .trailer 4 (crcStep crc b) 0 kind s) :=
  congrArg some (if_pos h)

theorem ckByteState_trailer (h : left - 1 ≠ 0) :
    ckByteState b (midCheck .trailer left crc sh kind s) =
      some (midCheck .trailer (left - 1) crc (shiftIn sh b) kind s) :=
  congrArg some (if_neg h)

theorem ckByteState_trailer_last (h : left - 1 = 0) :
    ckByteState b (midCheck .trailer left crc sh kind s) =
      some { midCheck .idle 0 crc (shiftIn sh b) kind s with
        ckres := some (if shiftIn sh b = crc then .ok else .badCrc) } :=
  congrArg some (if_pos h)

end Bytes

/-! ### The bytes of each phase -/

theorem count_succ_sub_one (n : Nat) : BitVec.ofNat 11 (n + 1) - 1 = BitVec.ofNat 11 n := by
  rw [BitVec.ofNat_add]
  exact BitVec.add_sub_cancel ..

theorem count_succ_ne_zero {n : Nat} (h : n < 2047) : BitVec.ofNat 11 (n + 1) ≠ 0 := by
  rw [ne_eq, ← BitVec.toNat_inj, BitVec.toNat_ofNat]
  change ¬ (n + 1) % 2 ^ 11 = 0
  omega

/-- Four bytes entered into an empty shift register are the word they spell (R12, R173). -/
theorem shiftIn_be32 (w : Word) :
    shiftIn (shiftIn (shiftIn (shiftIn 0 (byteOf w 3)) (byteOf w 2)) (byteOf w 1)) (byteOf w 0) = w :=
  (shiftIn_four ..).trans (fromBe32_byteOf w)

section Packet
variable {s : State} (hf : s.faulted = false)
include hf

/-- A byte that leads from one point of a check to another moves the feed on. -/
theorem ckFeedBytes_midCheck {b : Byte} {rest : List Byte} {phase phase' : CkState} {left left' : Count}
    {crc crc' sh sh' : Word} {kind kind' : Option Magic} (ho : phase ≠ .idle) (h0 : left ≠ 0)
    (hu : ckByteState b (midCheck phase left crc sh kind s) = some (midCheck phase' left' crc' sh' kind' s)) :
    ckFeedBytes (b :: rest) (midCheck phase left crc sh kind s) =
      ckFeedBytes rest (midCheck phase' left' crc' sh' kind' s) :=
  ckFeedBytes_of_noVerdict (checking_midCheck hf ho h0 crc sh kind) hu rfl rest

/-- The four bytes of a magic open the payload of its packet (R173). -/
theorem ckFeedBytes_magic (k : Magic) (rest : List Byte) :
    ckFeedBytes (be32 k.number ++ rest) (midCheck .magic 4 0xFFFFFFFF 0 none s) =
      ckFeedBytes rest (midCheck .payload k.plenCount (crc32Mpeg2 (be32 k.number)) k.number (some k) s) := by
  rw [be32, List.cons_append, ckFeedBytes_midCheck hf (by decide) (by decide) (ckByteState_magic (by decide)),
    List.cons_append, ckFeedBytes_midCheck hf (by decide) (by decide) (ckByteState_magic (by decide)),
    List.cons_append, ckFeedBytes_midCheck hf (by decide) (by decide) (ckByteState_magic (by decide)),
    List.cons_append, ckFeedBytes_midCheck hf (by decide) (by decide)
      (ckByteState_magic_last (by decide) (shiftIn_be32 k.number))]
  rfl

/-- The bytes of a payload fold into the CRC, and the last opens the trailer (R173). -/
theorem ckFeedBytes_payload (b : Byte) (p rest : List Byte) (hp : p.length < 2047) (crc sh : Word)
    (kind : Option Magic) :
    ckFeedBytes (b :: p ++ rest) (midCheck .payload (BitVec.ofNat 11 (p.length + 1)) crc sh kind s) =
      ckFeedBytes rest (midCheck .trailer 4 (crcBytes crc (b :: p)) 0 kind s) := by
  induction p generalizing b crc with
  | nil => exact ckFeedBytes_midCheck hf (by decide) (by decide) (ckByteState_payload_last (by decide))
  | cons c p ih =>
    rw [List.length_cons] at hp ⊢
    have hleft : BitVec.ofNat 11 (p.length + 1 + 1) - 1 ≠ 0 := by
      rw [count_succ_sub_one]
      exact count_succ_ne_zero (by omega)
    rw [List.cons_append, ckFeedBytes_midCheck hf (by decide) (count_succ_ne_zero hp) (ckByteState_payload hleft),
      count_succ_sub_one]
    exact ih c (by omega) (crcStep crc b)

/-- The four bytes of a trailer give the verdict, and what follows them is not fed (R173, R175). -/
theorem ckFeedBytes_trailer (k : Magic) (p : List Byte) (trailer : Word) (surplus : List Byte) :
    ckFeedBytes (be32 trailer ++ surplus) (midCheck .trailer 4 (crc32Mpeg2 (be32 k.number ++ p)) 0 (some k) s) =
      .next (checkedPacket k p trailer s) := by
  rw [be32, List.cons_append, ckFeedBytes_midCheck hf (by decide) (by decide) (ckByteState_trailer (by decide)),
    List.cons_append, ckFeedBytes_midCheck hf (by decide) (by decide) (ckByteState_trailer (by decide)),
    List.cons_append, ckFeedBytes_midCheck hf (by decide) (by decide) (ckByteState_trailer (by decide)),
    List.cons_append, ckFeedBytes_of_verdict (checking_midCheck hf (by decide) (by decide) ..)
      (ckByteState_trailer_last (by decide)) rfl, shiftIn_be32, checkedPacket]
  split_ifs <;> rfl

/-- A whole packet of any kind, whatever its trailer and whatever follows it, is checked to its end (R175). -/
theorem ckFeed_packetBytes_append (k : Magic) {p : List Byte} (hp : p.length = k.plen) (trailer : Word)
    (surplus : List Byte) :
    ckFeed (packetBytes k p trailer ++ surplus) s = .next (checkedPacket k p trailer s) := by
  refine ckFeed_next.2 (.inr ⟨hf, ?_⟩)
  change ckFeedBytes _ (midCheck .magic 4 0xFFFFFFFF 0 none s) = _
  cases p with
  | nil => exact absurd hp k.plen_pos.ne
  | cons b p =>
    have hlen : p.length < 2047 := by
      have hle := k.plen_le
      rw [← hp, List.length_cons] at hle
      omega
    rw [packetBytes, List.append_assoc, List.append_assoc, ckFeedBytes_magic hf, Magic.plenCount, ← hp,
      List.length_cons, ckFeedBytes_payload hf b p _ hlen, ← ckFeedBytes_trailer hf k (b :: p) trailer surplus,
      crc32Mpeg2, crc32Mpeg2, crcBytes_append]

theorem ckFeed_packetBytes (k : Magic) {p : List Byte} (hp : p.length = k.plen) (trailer : Word) :
    ckFeed (packetBytes k p trailer) s = .next (checkedPacket k p trailer s) := by
  rw [← ckFeed_packetBytes_append hf k hp trailer [], List.append_nil]

end Packet

/-- Settles O22: each packet's payload has the length its magic asks for, so the feed comes to a verdict; the lock refuses
a packet as it refuses every operation of a unit. -/
theorem receivedPacketVerdicts : Obligations.ReceivedPacketVerdicts := by
  refine ⟨fun s code crc hf => ckFeed_packetBytes hf .comd rfl crc,
    fun s size crc hf => ckFeed_packetBytes hf .head rfl crc,
    fun s block crc hf hb => ckFeed_packetBytes hf .data hb crc,
    fun s p0 p1 p2 p3 crc hf => ckFeed_packetBytes hf .pass rfl crc,
    fun s v crc hf => ckFeed_packetBytes hf .resp rfl crc, fun w crc => ⟨?_, ?_, ?_⟩, fun block crc => ?_,
    fun p0 p1 p2 p3 crc => ?_⟩
  all_goals exact fun s hl => exec_of_faulted (by simp [unitOf]) hl

end Sys2Proof.Machine
end

section
/-! PROOF. Reasoning rules the operations share: a command word with an illegal immediate faults with `ERR_OP`
(spec/30_encoding.md R102, R103), and operations issued in order run one after the other (spec/20_memory.md R70). -/

namespace Sys2Proof.Machine

/-- A command word that names no instruction faults with `ERR_OP` (R103, R283). -/
theorem faultsWithErrOp_of_error {op : Byte} {imm : Word} {e : DecodeError}
    (h : decodeCommand (commandWord op imm) = .error e) : FaultsWithErrOp op imm := fun s hf => by
  rw [runInput_of_error (x := .command (commandWord op imm)) h]
  exact congrArg Host.Outcome.next (takeFault_of_unfaulted hf .errOp)

theorem EncodesNone.faultsWithErrOp {op : Byte} {i : Instr} (h : EncodesNone op i) (imm : Word) (himm : imm ≠ 0) :
    FaultsWithErrOp op imm :=
  faultsWithErrOp_of_error ((h imm).trans (if_neg himm))

theorem EncodesByte.faultsWithErrOp {op : Byte} {mk : Byte → Instr} (h : EncodesByte op mk) (imm : Word)
    (himm : 256 ≤ imm.toNat) : FaultsWithErrOp op imm :=
  faultsWithErrOp_of_error ((h imm).trans (if_neg himm.not_gt))

/-- Every operation of a unit stands under the lock (R284). -/
theorem refusedWhileFaulted_of_unit {i : Instr} (hu : unitOf i ≠ .system) : RefusedWhileFaulted i :=
  fun _ hf => exec_of_faulted hu hf

theorem runInstrs_cons {i : Instr} {s t : State} (h : exec i s = .next t) (rest : List Instr) :
    runInstrs (i :: rest) s = runInstrs rest t := by
  simp only [runInstrs, h]

end Sys2Proof.Machine
end

section
/-! PROOF. The CRC as a function (spec/41_crc.md R130 to R132). The loop is linear over GF(2); a word whose leading bits
are zero is only shifted; and no other word than zero is shifted to zero, since the polynomial has constant term 1. The
table form, the word form and the residue law follow. -/

namespace Sys2Proof.Machine

/-- A turn in which no set bit leaves at the top is a shift. -/
theorem crcShift_of_lt {c : Word} (h : c.toNat < 2 ^ 31) : crcShift c = c <<< 1 := by
  have htop : c.getLsbD 31 = false := Nat.testBit_lt_two_pow h
  simp only [crcShift, htop, Bool.false_eq_true, if_false]

theorem toNat_shiftLeft_of_lt {n : Nat} {c : Word} (h : c.toNat * 2 ^ n < 2 ^ 32) :
    (c <<< n).toNat = c.toNat * 2 ^ n := by
  rw [BitVec.toNat_shiftLeft, Nat.shiftLeft_eq, Nat.mod_eq_of_lt h]

/-- Turns in none of which a set bit leaves at the top are a shift. -/
theorem crcShifts_of_lt {n : Nat} {c : Word} (h : c.toNat * 2 ^ n < 2 ^ 32) : crcShifts n c = c <<< n := by
  induction n generalizing c with
  | zero => exact (BitVec.shiftLeft_zero c).symm
  | succ n ih =>
    have hall : c.toNat * 2 ^ 1 * 2 ^ n < 2 ^ 32 := by rwa [Nat.mul_assoc, ← Nat.pow_add, Nat.add_comm]
    have hone : c.toNat * 2 ^ 1 < 2 ^ 32 := lt_of_le_of_lt (Nat.le_mul_of_pos_right _ (Nat.two_pow_pos n)) hall
    rw [crcShifts, crcShift_of_lt (by omega), ih (by rwa [toNat_shiftLeft_of_lt hone]), ← BitVec.shiftLeft_add,
      Nat.add_comm]

/-- R132 (b): the step is linear over GF(2). -/
theorem crcStep_xor (c d : Word) (a b : Byte) : crcStep (c ^^^ d) (a ^^^ b) = crcStep c a ^^^ crcStep d b := by
  have hswap : ∀ u v x y : Word, u ^^^ v ^^^ (x ^^^ y) = u ^^^ x ^^^ (v ^^^ y) := by intros; ac_rfl
  rw [crcStep, crcStep, crcStep, ← crcShifts_xor, BitVec.setWidth_xor, BitVec.shiftLeft_xor_distrib, hswap]

/-- Settles O8: the fold composes over append, and the step is linear since each turn of the loop is. -/
theorem crcCompositionAndLinearity : Obligations.CrcCompositionAndLinearity :=
  ⟨crcBytes_append, crcStep_xor, by decide⟩

/-! ### The table form (R132 (d)) -/

/-- A word is its low 24 bits and its top byte. -/
theorem low_xor_topByte (c : Word) :
    (c.setWidth 24).setWidth 32 ^^^ (byteOf c 3).setWidth 32 <<< 24 = c := by
  ext i hi
  rcases Nat.lt_or_ge i 24 with hlow | hhigh
  · simp [byteOf, hlow, BitVec.getLsbD_eq_getElem hi]
  · simp [byteOf, hhigh, Nat.not_lt.2 hhigh, show i - 24 < 8 by omega, BitVec.getLsbD_eq_getElem hi]

theorem low_shiftLeft_eight (c : Word) : (c.setWidth 24).setWidth 32 <<< 8 = c <<< 8 := by
  ext i hi
  rcases Nat.lt_or_ge i 8 with hzero | hmoved
  · simp [hzero]
  · simp [show i - 8 < 24 by omega, show i - 8 < 32 by omega]

/-- The low 24 bits are shifted, and only the top byte meets the polynomial. -/
theorem crcStep_eq_table (c : Word) (b : Byte) : crcStep c b = (c <<< 8) ^^^ crcStep 0 (byteOf c 3 ^^^ b) := by
  have hlow : ((c.setWidth 24).setWidth 32).toNat * 2 ^ 8 < 2 ^ 32 := by
    have hbits := (c.setWidth 24).isLt
    rw [BitVec.toNat_setWidth_of_le (by decide)]
    omega
  calc crcStep c b
      = crcShifts 8 ((c.setWidth 24).setWidth 32 ^^^ (byteOf c 3 ^^^ b).setWidth 32 <<< 24) := by
        rw [BitVec.setWidth_xor, BitVec.shiftLeft_xor_distrib, ← BitVec.xor_assoc, low_xor_topByte, crcStep]
    _ = (c <<< 8) ^^^ crcStep 0 (byteOf c 3 ^^^ b) := by
        rw [crcShifts_xor, crcShifts_of_lt hlow, low_shiftLeft_eight, crcStep]
        exact congrArg (c <<< 8 ^^^ crcShifts 8 ·) BitVec.zero_xor.symm

/-! ### The word form (R132 (e)) -/

/-- A byte that stands `m` bits below its place in a step is shifted to that place by `m` turns. -/
theorem crcShifts_byte {m : Nat} (hm : m ≤ 24) (b : Byte) :
    crcShifts m (b.setWidth 32 <<< (24 - m)) = b.setWidth 32 <<< 24 := by
  have hb : (b.setWidth 32).toNat < 2 ^ 8 := by
    rw [BitVec.toNat_setWidth_of_le (by decide)]
    exact b.isLt
  have hlt : (b.setWidth 32 <<< (24 - m)).toNat * 2 ^ m < 2 ^ 32 :=
    calc (b.setWidth 32 <<< (24 - m)).toNat * 2 ^ m
        ≤ (b.setWidth 32).toNat * 2 ^ (24 - m) * 2 ^ m := by
          rw [BitVec.toNat_shiftLeft, Nat.shiftLeft_eq]
          exact Nat.mul_le_mul_right _ (Nat.mod_le ..)
      _ = (b.setWidth 32).toNat * 2 ^ 24 := by rw [Nat.mul_assoc, ← Nat.pow_add, Nat.sub_add_cancel hm]
      _ < 2 ^ 32 := by omega
  rw [crcShifts_of_lt hlt, ← BitVec.shiftLeft_add, Nat.sub_add_cancel hm]

/-- A byte that enters after `m` turns may as well have been added before them, `m` bits lower. -/
theorem crcStep_crcShifts {m : Nat} (hm : m ≤ 24) (c : Word) (b : Byte) :
    crcStep (crcShifts m c) b = crcShifts (m + 8) (c ^^^ b.setWidth 32 <<< (24 - m)) := by
  rw [crcShifts_add, crcShifts_xor, crcShifts_byte hm, crcStep]

theorem fromBe32_eq_xor (a b c d : Byte) :
    fromBe32 a b c d = a.setWidth 32 <<< 24 ^^^ b.setWidth 32 <<< 16 ^^^ c.setWidth 32 <<< 8 ^^^ d.setWidth 32 := by
  ext i hi
  simp [fromBe32]
  interval_cases i <;> simp

/-- Four bytes are fed by 32 turns on the accumulator with the word they spell. -/
theorem crcBytes_four (c : Word) (t0 t1 t2 t3 : Byte) :
    crcBytes c [t0, t1, t2, t3] = crcShifts 32 (c ^^^ fromBe32 t0 t1 t2 t3) := by
  calc crcBytes c [t0, t1, t2, t3]
      = crcStep (crcStep (crcStep (crcStep (crcShifts 0 c) t0) t1) t2) t3 := rfl
    _ = crcShifts 32 (c ^^^ fromBe32 t0 t1 t2 t3) := by
        simp only [crcStep_crcShifts, fromBe32_eq_xor, BitVec.xor_assoc, Nat.reduceAdd, Nat.reduceSub, Nat.reduceLeDiff,
          BitVec.shiftLeft_zero, Nat.zero_le]

theorem crcBytes_be32 (c w : Word) : crcBytes c (be32 w) = crcShifts 32 (c ^^^ w) := by
  rw [be32, crcBytes_four, fromBe32_byteOf]

/-- Settles O9: only the top byte of the accumulator meets the polynomial in a step, and each byte of a word waits its
turn unchanged; the table entries are computed. -/
theorem crcTableAndWordForm : Obligations.CrcTableAndWordForm :=
  ⟨crcStep_eq_table, by decide, crcBytes_be32⟩

/-! ### The residue law (R132 (c)) -/

/-- A turn leads to zero from zero alone: the bit that leaves at the top comes back as the constant term. -/
theorem crcShift_eq_zero {c : Word} : crcShift c = 0 ↔ c = 0 := by
  refine ⟨fun h => ?_, fun h => by rw [h]; decide⟩
  cases htop : c.getLsbD 31 with
  | true =>
    have hbit : (crcShift c).getLsbD 0 = true := by
      simp only [crcShift, htop, if_true]
      simp
    rw [h] at hbit
    cases hbit
  | false =>
    have hlt : 2 * c.toNat < 2 ^ 32 := BitVec.msb_eq_false_iff_two_mul_lt.1 htop
    rw [crcShift_of_lt (by omega), ← BitVec.toNat_inj, toNat_shiftLeft_of_lt (by omega)] at h
    exact BitVec.eq_of_toNat_eq ((Nat.mul_eq_zero.1 h).resolve_right (by decide))

theorem crcShifts_eq_zero {n : Nat} {c : Word} : crcShifts n c = 0 ↔ c = 0 := by
  induction n generalizing c with
  | zero => rfl
  | succ n ih => exact ih.trans crcShift_eq_zero

theorem crcBytes_four_eq_zero (c : Word) (t0 t1 t2 t3 : Byte) :
    crcBytes c [t0, t1, t2, t3] = 0 ↔ [t0, t1, t2, t3] = be32 c := by
  rw [crcBytes_four, crcShifts_eq_zero, ← be32_fromBe32]
  exact BitVec.xor_eq_zero_iff.trans ⟨fun h => congrArg be32 h.symm, fun h => (be32_injective h).symm⟩

/-- Settles O10: the four bytes and the accumulator cancel exactly when they are equal, and only zero leads to zero. -/
theorem crcResidue : Obligations.CrcResidue := by
  refine ⟨crcBytes_four_eq_zero, fun s => ?_⟩
  rw [crc32Mpeg2, crcBytes_append]
  exact (crcBytes_four_eq_zero ..).2 rfl

end Sys2Proof.Machine
end

section
/-! PROOF. The operations of the CRC unit (spec/41_crc.md R133 to R135). -/

namespace Sys2Proof.Machine

theorem exec_crcInit {s : State} (hf : s.faulted = false) :
    exec .crcInit s = .next (respond 0 { s with crc := 0xFFFFFFFF }) := execCrcInit_next.2 (.inr ⟨hf, rfl⟩)

theorem exec_crcByte (b : Byte) {s : State} (hf : s.faulted = false) :
    exec (.crcByte b) s = .next (respond 0 { s with crc := crcStep s.crc b }) := execCrcByte_next.2 (.inr ⟨hf, rfl⟩)

theorem exec_crcCmp (w : Word) {s : State} (hf : s.faulted = false) :
    exec (.crcCmp w) s = .next (respond (bitWord (s.crc == w)) { s with crcok := s.crc == w }) :=
  execCrcCmp_next.2 (.inr ⟨hf, rfl⟩)

/-- `CRC.BYTE` of each byte folds the accumulator over the bytes (R131, R134). -/
theorem runInstrs_crcByte (bytes : List Byte) {s : State} (hf : s.faulted = false) :
    runInstrs (bytes.map .crcByte) (respond 0 s) = .next (respond 0 { s with crc := crcBytes s.crc bytes }) := by
  induction bytes generalizing s with
  | nil => rfl
  | cons b rest ih =>
    rw [List.map_cons, runInstrs_cons (exec_crcByte b (s := respond 0 s) hf)]
    exact ih (s := { s with crc := crcStep s.crc b }) hf

/-- Settles O5: opcode 10 has class N, and the operation stands under the lock. -/
theorem crcInitOperation : Obligations.CrcInitOperation :=
  have henc : EncodesNone 0x10 .crcInit := encodesNone_of_class rfl
  ⟨henc, henc.faultsWithErrOp, refusedWhileFaulted_of_unit (by decide), fun _ hf => exec_crcInit hf⟩

/-- Settles O6: opcode 11 has class B, the operation stands under the lock, and one a byte folds the message. -/
theorem crcByteOperation : Obligations.CrcByteOperation := by
  have henc : EncodesByte 0x11 .crcByte := encodesByte_of_class rfl
  refine ⟨henc, henc.faultsWithErrOp, fun b => refusedWhileFaulted_of_unit (by simp [unitOf]),
    fun s b hf => exec_crcByte b hf, fun s message hf => ?_⟩
  rw [runInstrs_cons (exec_crcInit hf)]
  exact runInstrs_crcByte message (s := { s with crc := 0xFFFFFFFF }) hf

/-- Settles O7: opcode 12 has class W, the operation stands under the lock, and the comparison is returned as it is
stored. -/
theorem crcCmpOperation : Obligations.CrcCmpOperation := by
  refine ⟨encodesWord_of_class rfl, fun w => refusedWhileFaulted_of_unit (by simp [unitOf]),
    fun s w hf heq => ?_, fun s w hf hne => ?_⟩
  · rw [exec_crcCmp w hf, beq_iff_eq.2 heq]
    rfl
  · rw [exec_crcCmp w hf, beq_false_of_ne hne]
    rfl

end Sys2Proof.Machine
end

section
/-! PROOF. The operations of the transmit framer (spec/42_tx_framer.md R152, R153). -/

namespace Sys2Proof

/-- The packet magics are the five numbers of R91. -/
theorem Magic.number_mem (k : Magic) :
    k.number ∈ [(0x434F4D44 : Word), 0x48454144, 0x44415441, 0x50415353, 0x52455350] := by
  cases k <;> decide

theorem Magic.ofNumber_eq_none_of_notMem {m : Word}
    (h : m ∉ [(0x434F4D44 : Word), 0x48454144, 0x44415441, 0x50415353, 0x52455350]) : Magic.ofNumber m = none :=
  Magic.ofNumber_eq_none.2 fun k hk => h (hk ▸ Magic.number_mem k)

/-- What `TX.START` stores and returns: 1024 for `DATA` and 4 for the others (R8, R152). -/
theorem Magic.plenCount_eq (k : Magic) :
    k.plenCount = (if k = .data then 1024 else 4) ∧ k.plenCount.setWidth 32 = (if k = .data then 1024 else 4) := by
  cases k <;> decide

end Sys2Proof

namespace Sys2Proof.Machine

/-- A decrement above zero, as a counter value and as the word that is returned (R15, R153). -/
theorem count_sub_one_eq {c : Count} (h : 1 < c.toNat) :
    c - 1 = BitVec.ofNat 11 (c.toNat - 1) ∧ (c - 1).setWidth 32 = BitVec.ofNat 32 (c.toNat - 1) := by
  constructor <;> bv_omega

section Unlocked
variable {s : State} (hf : s.faulted = false)
include hf

theorem exec_txStart_magic (hi : s.txst = .idle) (k : Magic) :
    exec (.txStart k.number) s = .next (respond (k.plenCount.setWidth 32) (emit (be32 k.number)
      { s with txcrc := crc32Mpeg2 (be32 k.number), txrem := k.plenCount, txst := .payload })) :=
  execTxStart_next.2 (.inr ⟨hf, .inr (.inr ⟨k, hi, rfl, rfl⟩)⟩)

theorem exec_txStart_open (hp : s.txst = .payload) (m : Word) :
    exec (.txStart m) s = .next (takeFault .errSeq s) :=
  execTxStart_next.2 (.inr ⟨hf, .inl ⟨hp, rfl⟩⟩)

theorem exec_txStart_unknown (hi : s.txst = .idle) {m : Word} (hm : Magic.ofNumber m = none) :
    exec (.txStart m) s = .next (takeFault .errMagic s) :=
  execTxStart_next.2 (.inr ⟨hf, .inr (.inl ⟨hi, hm, rfl⟩)⟩)

theorem exec_txByte_middle (hp : s.txst = .payload) (h0 : s.txrem ≠ 0) (h1 : s.txrem - 1 ≠ 0) (b : Byte) :
    exec (.txByte b) s = .next (respond ((s.txrem - 1).setWidth 32)
      (emit [b] { s with txcrc := crcStep s.txcrc b, txrem := s.txrem - 1 })) :=
  execTxByte_next.2 (.inr ⟨hf, .inr (.inr ⟨hp, h0, h1, rfl⟩)⟩)

theorem exec_txByte_last (hp : s.txst = .payload) (h1 : s.txrem = 1) (b : Byte) :
    exec (.txByte b) s = .next (respond 0 (emit (b :: be32 (crcStep s.txcrc b))
      { s with txcrc := crcStep s.txcrc b, txrem := 0, txst := .idle })) :=
  execTxByte_next.2 (.inr ⟨hf, .inr (.inl ⟨hp, by rw [h1]; decide, by rw [h1]; decide, rfl⟩)⟩)

theorem exec_txByte_idle (hi : s.txst = .idle) (b : Byte) :
    exec (.txByte b) s = .next (takeFault .errSeq s) :=
  execTxByte_next.2 (.inr ⟨hf, .inl ⟨hi, rfl⟩⟩)

end Unlocked

/-- Settles O11: opcode 20 has class W, the operation stands under the lock, and the phase is tested before the magic. -/
theorem txStartOperation : Obligations.TxStartOperation := by
  refine ⟨encodesWord_of_class rfl, fun m => refusedWhileFaulted_of_unit (by simp [unitOf]),
    fun s k hf hi => ?_, fun s m hf hp => ?_, fun s m hf hi hm => ?_⟩
  · obtain ⟨hcount, hword⟩ := k.plenCount_eq
    rw [exec_txStart_magic hf hi, hword, hcount]
    rfl
  · rw [exec_txStart_open hf hp, takeFault_of_unfaulted hf]
    rfl
  · rw [exec_txStart_unknown hf hi (Magic.ofNumber_eq_none_of_notMem hm), takeFault_of_unfaulted hf]
    rfl

/-- Settles O12: opcode 21 has class B, the operation stands under the lock, and the counter is at one exactly on the
last byte. -/
theorem txByteOperation : Obligations.TxByteOperation := by
  have henc : EncodesByte 0x21 .txByte := encodesByte_of_class rfl
  refine ⟨henc, henc.faultsWithErrOp, fun b => refusedWhileFaulted_of_unit (by simp [unitOf]),
    fun s b hf hp hrem => ?_, fun s b hf hp hrem => ?_, fun s b hf hi => ?_⟩
  · obtain ⟨hcount, hword⟩ := count_sub_one_eq hrem
    rw [exec_txByte_middle hf hp (by bv_omega) (by bv_omega), hword, hcount]
    rfl
  · rw [exec_txByte_last hf hp (BitVec.eq_of_toNat_eq hrem), List.append_assoc]
    rfl
  · rw [exec_txByte_idle hf hi, takeFault_of_unfaulted hf]
    rfl

end Sys2Proof.Machine
end

section
/-! PROOF. A whole packet through the framer (spec/42_tx_framer.md R156): the payload bytes go out as they come, their CRC
folds on from the magic's, and the last one brings the trailer. -/

namespace Sys2Proof.Machine

/-- `TX.BYTE` of each byte an open packet owes sends the rest of the payload and the trailer, and closes the packet. -/
theorem runInstrs_txByte (b : Byte) (p : List Byte) (hp : p.length < 2047) {s : State} (hf : s.faulted = false)
    (hopen : s.txst = .payload) (hrem : s.txrem = BitVec.ofNat 11 (p.length + 1)) :
    runInstrs ((b :: p).map .txByte) s =
      .next (respond 0 (emit (b :: p ++ be32 (crcBytes s.txcrc (b :: p)))
        { s with txcrc := crcBytes s.txcrc (b :: p), txrem := 0, txst := .idle })) := by
  induction p generalizing b s with
  | nil => exact runInstrs_cons (exec_txByte_last hf hopen hrem b) []
  | cons c p ih =>
    rw [List.length_cons] at hp hrem
    have hleft : s.txrem - 1 = BitVec.ofNat 11 (p.length + 1) := by rw [hrem, count_succ_sub_one]
    have h0 : s.txrem ≠ 0 := hrem ▸ count_succ_ne_zero hp
    have h1 : s.txrem - 1 ≠ 0 := hleft ▸ count_succ_ne_zero (by omega)
    refine (runInstrs_cons (exec_txByte_middle hf hopen h0 h1 b) _).trans (Eq.trans (ih c (by omega) hf hopen hleft) ?_)
    simp [respond, emit]

/-- Settles O13: `TX.START` opens a packet that owes as many bytes as the payload has. -/
theorem framerAppendsEncodedPacket : Obligations.FramerAppendsEncodedPacket := by
  intro s k p hf hi hrem hp
  cases p with
  | nil => exact absurd hp k.plen_pos.ne
  | cons b p =>
    have hlen : p.length < 2047 := by
      have hle := k.plen_le
      rw [← hp, List.length_cons] at hle
      omega
    have howed : k.plenCount = BitVec.ofNat 11 (p.length + 1) := by rw [Magic.plenCount, ← hp, List.length_cons]
    refine (runInstrs_cons (exec_txStart_magic hf hi k) _).trans (Eq.trans (runInstrs_txByte b p hlen hf rfl howed) ?_)
    simp [respond, emit, encodePacket, crc32Mpeg2, crcBytes_append, answered, hi, hrem]

end Sys2Proof.Machine
end

section
/-! PROOF. The transmit stream is framed (spec/42_tx_framer.md R155): only the framer's two operations and `RESET` write
what the framing speaks of; `TX.START` opens a packet with no payload yet, and `TX.BYTE` adds a byte to the open packet,
or completes it. -/

namespace Sys2Proof.Machine

/-- With no packet open, `TX` is complete packets. -/
theorem txFramed_of_idle {s : State} (hi : s.txst = .idle) :
    TxFramed s ↔ ∃ packets : List (Magic × List Byte), (∀ p ∈ packets, Admitted p) ∧ s.tx = framed packets := by
  simp only [TxFramed, hi]

/-- With a packet open, `TX` is complete packets and the open packet so far. -/
theorem txFramed_of_payload {s : State} (hp : s.txst = .payload) :
    TxFramed s ↔ ∃ packets : List (Magic × List Byte), (∀ p ∈ packets, Admitted p) ∧
      ∃ (m : Magic) (part : List Byte), part.length + s.txrem.toNat = m.plen ∧
        s.tx = framed packets ++ (be32 m.number ++ part) ∧ s.txcrc = crc32Mpeg2 (be32 m.number ++ part) := by
  simp only [TxFramed, hp]

/-- The framing speaks of the framer's components alone. -/
theorem TxFramed.of_sameUnit {s t : State} (h : TxFramed s) (hst : SameUnit .framer s t) : TxFramed t := by
  obtain ⟨hcrc, htxst, hrem, htx⟩ := hst
  unfold TxFramed at h ⊢
  rwa [← hcrc, ← htxst, ← hrem, ← htx]

theorem TxFramed.takeFault {s : State} (h : TxFramed s) (e : FaultCode) : TxFramed (takeFault e s) :=
  h.of_sameUnit (sameUnit_takeFault.2 (.refl _ s))

/-- Past the lock only the operation's own work has to keep the framing. -/
theorem TxFramed.of_lock {s t : State} {work : Prop} (h : TxFramed s) (hwork : work → TxFramed t)
    (hst : (s.faulted = true ∧ t = refuse s) ∨ (s.faulted = false ∧ work)) : TxFramed t := by
  rcases hst with ⟨-, rfl⟩ | ⟨-, hw⟩
  · exact h
  · exact hwork hw

theorem framed_concat (packets : List (Magic × List Byte)) (m : Magic) (payload : List Byte) :
    framed (packets ++ [(m, payload)]) = framed packets ++ encodePacket m.number payload := by
  simp [framed]

/-- The magic alone begins a packet of which no payload byte has gone out (R152). -/
theorem execTxStart_keeps_framed {m : Word} {s t : State} (h : TxFramed s) (hst : execTxStart m s = .next t) :
    TxFramed t := by
  refine h.of_lock ?_ (execTxStart_next.1 hst)
  rintro (⟨-, rfl⟩ | ⟨-, -, rfl⟩ | ⟨k, hi, rfl, rfl⟩)
  · exact h.takeFault _
  · exact h.takeFault _
  · obtain ⟨packets, hadm, htx⟩ := (txFramed_of_idle hi).1 h
    refine (txFramed_of_payload rfl).2 ⟨packets, hadm, k, [], ?_, ?_, ?_⟩
    · simp
    · simp [htx]
    · simp

/-- A byte of an open packet makes its part one longer; the last one makes it a whole packet, and the trailer that
follows is the CRC of its magic and payload (R153). -/
theorem execTxByte_keeps_framed {b : Byte} {s t : State} (h : TxFramed s) (hst : execTxByte b s = .next t) :
    TxFramed t := by
  refine h.of_lock ?_ (execTxByte_next.1 hst)
  rintro (⟨-, rfl⟩ | ⟨hp, h0, h1, rfl⟩ | ⟨hp, h0, h1, rfl⟩)
  · exact h.takeFault _
  · obtain ⟨packets, hadm, m, part, hlen, htx, hcrc⟩ := (txFramed_of_payload hp).1 h
    have hwhole : Admitted (m, part ++ [b]) := by
      have hone : s.txrem.toNat = 1 := by bv_omega
      rw [Admitted, List.length_append, List.length_singleton, ← hone, hlen]
    refine (txFramed_of_idle rfl).2 ⟨packets ++ [(m, part ++ [b])], ?_, ?_⟩
    · exact List.forall_mem_append.2 ⟨hadm, List.forall_mem_singleton.2 hwhole⟩
    · rw [framed_concat, encodePacket, ← List.append_assoc (be32 m.number), crc32Mpeg2_append_singleton, ← hcrc]
      simp [htx]
  · obtain ⟨packets, hadm, m, part, hlen, htx, hcrc⟩ := (txFramed_of_payload hp).1 h
    refine (txFramed_of_payload ?_).2 ⟨packets, hadm, m, part ++ [b], ?_, ?_, ?_⟩
    · exact hp
    · have hone : (s.txrem - 1).toNat + 1 = s.txrem.toNat := by bv_omega
      simp only [respond_txrem, emit_txrem, List.length_append, List.length_singleton]
      omega
    · simp [htx]
    · simp only [respond_txcrc, emit_txcrc, ← List.append_assoc, crc32Mpeg2_append_singleton, hcrc]

/-- `RESET` closes the framer and keeps the trace, so it must not come in an open packet (R34, R155). -/
theorem execReset_keeps_framed {s t : State} (h : TxFramed s) (hi : s.txst = .idle) (hst : execReset s = .next t) :
    TxFramed t := by
  cases execReset_next.1 hst
  exact (txFramed_of_idle rfl).2 ((txFramed_of_idle hi).1 h)

/-- A row without the framer's components leaves the framer as it is, and so does a fault (R30, R282). -/
theorem KeepsRow.sameUnit_framer {row : List Component} {s t : State} (h : KeepsRow row s t)
    (hrow : List.Disjoint [.txcrc, .txst, .txrem, .tx] row) : SameUnit .framer s t := by
  rcases h with hwrites | ⟨e, rfl⟩
  · have hsame : ∀ c ∈ [Component.txcrc, .txst, .txrem, .tx], SameComponent c s t :=
      fun c hc => hwrites.others c (hrow hc)
    exact ⟨hsame .txcrc (by simp), hsame .txst (by simp), hsame .txrem (by simp), hsame .tx (by simp)⟩
  · exact sameUnit_takeFault.2 (.refl _ s)

/-- Every instruction keeps the framing, but `RESET` in an open packet. -/
theorem exec_keeps_framed {i : Instr} {s t : State} (h : TxFramed s) (hreset : i = .reset → s.txst = .idle)
    (hst : exec i s = .next t) : TxFramed t := by
  cases i with
  | reset => exact execReset_keeps_framed h (hreset rfl) hst
  | txStart m => exact execTxStart_keeps_framed h hst
  | txByte b => exact execTxByte_keeps_framed h hst
  | _ => exact h.of_sameUnit ((exec_keepsRow hst).sameUnit_framer (by simp [writesOf]))

theorem runInput_keeps_framed {x : Input} {s t : State} (h : TxFramed s)
    (hreset : decode x = .ok .reset → s.txst = .idle) (hst : runInput x s = .next t) : TxFramed t := by
  rcases runInput_cases hst with ⟨i, hdec, hi⟩ | ⟨cmd, e, -, -, rfl⟩ | ⟨bytes, e, -, -, hfeed⟩
  · exact exec_keeps_framed h (fun hr => hreset (hr ▸ hdec)) hi
  · exact h.takeFault _
  · exact h.of_sameUnit ((KeepsRow.of_feed (ckFeed_outside hfeed)).sameUnit_framer (by simp))

/-- `RESET` has one encoding (R231). -/
theorem eq_of_decode_reset {x : Input} (h : decode x = .ok .reset) : x = .command 0x0100000000 :=
  (encodingIsUnique x .reset h).1.symm.trans (by decide)

/-- Settles O15: the input taken keeps the framing, and the one it could break it with is the one word of `RESET`. -/
theorem stepKeepsTransmitStreamFramed : Obligations.StepKeepsTransmitStreamFramed := by
  intro s t h hst hopen
  rcases step_cases hst with ⟨-, rfl⟩ | ⟨x, rest, hinbox, hrun⟩
  · exact h
  · refine runInput_keeps_framed (s := { s with inbox := rest }) h (fun hdec => ?_) hrun
    cases hs : s.txst with
    | idle => rfl
    | payload =>
      have hhead : s.inbox.head? = some (.command 0x0100000000) := by rw [hinbox, eq_of_decode_reset hdec]; rfl
      exact absurd hhead (hopen hs)

/-- Settles O14: nothing has been emitted, and no packet is open. -/
theorem transmitStreamFramedAtReset : Obligations.TransmitStreamFramedAtReset :=
  (txFramed_of_idle rfl).2 ⟨[], by simp, rfl⟩

end Sys2Proof.Machine
end

section
/-! PROOF. The operations of the packet checker (spec/43_rx_checker.md R172, R173): what a received byte leaves in each
phase, before and at the phase's last byte, and the operations under the lock. -/

namespace Sys2Proof.Machine

section Phases
variable {b : Byte} {s : State}

theorem ckMagicByte_middle (h : s.ckcnt - 1 ≠ 0) :
    ckMagicByte b s = { s with cksh := shiftIn s.cksh b, ckcrc := crcStep s.ckcrc b, ckcnt := s.ckcnt - 1 } :=
  if_neg h

theorem ckMagicByte_last (h : s.ckcnt - 1 = 0) {k : Magic} (hk : shiftIn s.cksh b = k.number) :
    ckMagicByte b s =
      { s with cksh := k.number, ckcrc := crcStep s.ckcrc b, ckkind := some k, ckcnt := k.plenCount,
               ckst := .payload } := by
  simp only [ckMagicByte, h, hk, if_true, Magic.ofNumber_number]

theorem ckMagicByte_last_unknown (h : s.ckcnt - 1 = 0) (hk : Magic.ofNumber (shiftIn s.cksh b) = none) :
    ckMagicByte b s =
      { s with cksh := shiftIn s.cksh b, ckcrc := crcStep s.ckcrc b, ckcnt := 0, ckres := some .badMagic,
               ckst := .idle } := by
  simp only [ckMagicByte, h, hk, if_true]

theorem ckPayloadByte_middle (h : s.ckcnt - 1 ≠ 0) :
    ckPayloadByte b s = { s with ckcrc := crcStep s.ckcrc b, ckcnt := s.ckcnt - 1 } :=
  if_neg h

theorem ckPayloadByte_last (h : s.ckcnt - 1 = 0) :
    ckPayloadByte b s = { s with ckcrc := crcStep s.ckcrc b, cksh := 0, ckcnt := 4, ckst := .trailer } :=
  if_pos h

theorem ckTrailerByte_middle (h : s.ckcnt - 1 ≠ 0) :
    ckTrailerByte b s = { s with cksh := shiftIn s.cksh b, ckcnt := s.ckcnt - 1 } :=
  if_neg h

theorem ckTrailerByte_last (h : s.ckcnt - 1 = 0) :
    ckTrailerByte b s =
      { s with cksh := shiftIn s.cksh b, ckcnt := 0, ckst := .idle,
               ckres := some (if shiftIn s.cksh b = s.ckcrc then .ok else .badCrc) } :=
  if_pos h

theorem ckByteState_of_magic (h : s.ckst = .magic) : ckByteState b s = some (ckMagicByte b s) := by
  simp only [ckByteState, h]

theorem ckByteState_of_payload (h : s.ckst = .payload) : ckByteState b s = some (ckPayloadByte b s) := by
  simp only [ckByteState, h]

theorem ckByteState_of_trailer (h : s.ckst = .trailer) : ckByteState b s = some (ckTrailerByte b s) := by
  simp only [ckByteState, h]

end Phases

section Unlocked
variable {s : State} (hf : s.faulted = false)
include hf

theorem exec_ckStart : exec .ckStart s = .next (respond 0 (ckStartState s)) := execCkStart_next.2 (.inr ⟨hf, rfl⟩)

theorem exec_ckByte_idle (hi : s.ckst = .idle) (b : Byte) : exec (.ckByte b) s = .next (takeFault .errSeq s) :=
  execCkByte_next.2 (.inr ⟨hf, .inl ⟨hi, rfl⟩⟩)

theorem exec_ckByte_magic (hm : s.ckst = .magic) (h0 : s.ckcnt ≠ 0) (b : Byte) :
    exec (.ckByte b) s = .next (respond (ckresCode (ckMagicByte b s).ckres) (ckMagicByte b s)) :=
  execCkByte_next.2 (.inr ⟨hf, .inr ⟨by simp [hm], h0, _, ckByteState_of_magic hm, rfl⟩⟩)

theorem exec_ckByte_payload (hp : s.ckst = .payload) (h0 : s.ckcnt ≠ 0) (b : Byte) :
    exec (.ckByte b) s = .next (respond (ckresCode (ckPayloadByte b s).ckres) (ckPayloadByte b s)) :=
  execCkByte_next.2 (.inr ⟨hf, .inr ⟨by simp [hp], h0, _, ckByteState_of_payload hp, rfl⟩⟩)

theorem exec_ckByte_trailer (ht : s.ckst = .trailer) (h0 : s.ckcnt ≠ 0) (b : Byte) :
    exec (.ckByte b) s = .next (respond (ckresCode (ckTrailerByte b s).ckres) (ckTrailerByte b s)) :=
  execCkByte_next.2 (.inr ⟨hf, .inr ⟨by simp [ht], h0, _, ckByteState_of_trailer ht, rfl⟩⟩)

end Unlocked

/-- A counter above one is neither at zero nor at its last byte (R15, R173). -/
theorem count_middle {c : Count} (h : 1 < c.toNat) : c ≠ 0 ∧ c - 1 ≠ 0 := by
  constructor <;> bv_omega

/-- A counter at one is at its last byte (R173). -/
theorem count_last {c : Count} (h : c.toNat = 1) : c ≠ 0 ∧ c - 1 = 0 := by
  constructor <;> bv_omega

/-- Settles O17: opcode 30 has class N, the operation stands under the lock, and it does not look at the phase. -/
theorem ckStartOperation : Obligations.CkStartOperation :=
  have henc : EncodesNone 0x30 .ckStart := encodesNone_of_class rfl
  ⟨henc, henc.faultsWithErrOp, refusedWhileFaulted_of_unit (by decide), fun _ hf => exec_ckStart hf⟩

/-- Settles O18: opcode 31 has class B, the operation stands under the lock, and the fourth byte makes the shift
register the number that is looked up among the magics. -/
theorem ckByteInMagicPhase : Obligations.CkByteInMagicPhase := by
  have henc : EncodesByte 0x31 .ckByte := encodesByte_of_class rfl
  refine ⟨henc, henc.faultsWithErrOp, fun b => refusedWhileFaulted_of_unit (by simp [unitOf]),
    fun s b hf hi => ?_, fun s b hf hm hcnt => ?_, fun s b k hf hm hcnt hk => ?_, fun s b hf hm hcnt hk => ?_⟩
  · rw [exec_ckByte_idle hf hi, takeFault_of_unfaulted hf]
    rfl
  · obtain ⟨h0, h1⟩ := count_middle hcnt
    rw [exec_ckByte_magic hf hm h0, ckMagicByte_middle h1, (count_sub_one_eq hcnt).1]
    rfl
  · obtain ⟨h0, h1⟩ := count_last hcnt
    rw [exec_ckByte_magic hf hm h0, ckMagicByte_last h1 hk, k.plenCount_eq.1]
    rfl
  · obtain ⟨h0, h1⟩ := count_last hcnt
    rw [exec_ckByte_magic hf hm h0, ckMagicByte_last_unknown h1 (Magic.ofNumber_eq_none.2 hk)]
    rfl

/-- Settles O19: the last payload byte clears the shift register for the trailer, and the last trailer byte makes it the
number that is compared with the CRC. -/
theorem ckByteInPayloadAndTrailerPhases : Obligations.CkByteInPayloadAndTrailerPhases := by
  refine ⟨fun s b hf hp hcnt => ?_, fun s b hf hp hcnt => ?_, fun s b hf ht hcnt => ?_,
    fun s b hf ht hcnt heq => ?_, fun s b hf ht hcnt hne => ?_⟩
  · obtain ⟨h0, h1⟩ := count_middle hcnt
    rw [exec_ckByte_payload hf hp h0, ckPayloadByte_middle h1, (count_sub_one_eq hcnt).1]
    rfl
  · obtain ⟨h0, h1⟩ := count_last hcnt
    rw [exec_ckByte_payload hf hp h0, ckPayloadByte_last h1]
    rfl
  · obtain ⟨h0, h1⟩ := count_middle hcnt
    rw [exec_ckByte_trailer hf ht h0, ckTrailerByte_middle h1, (count_sub_one_eq hcnt).1]
    rfl
  · obtain ⟨h0, h1⟩ := count_last hcnt
    rw [exec_ckByte_trailer hf ht h0, ckTrailerByte_last h1, shiftIn, heq, if_pos rfl]
    rfl
  · obtain ⟨h0, h1⟩ := count_last hcnt
    rw [exec_ckByte_trailer hf ht h0, ckTrailerByte_last h1, shiftIn, if_neg hne]
    rfl

end Sys2Proof.Machine
end

section
/-! PROOF. The function `verify` (spec/43_rx_checker.md R170): the four shapes a received byte sequence can have, and
its result on each. -/

namespace Sys2Proof.Machine

/-- The shapes of a byte sequence: too short for a magic, no magic in front, a packet cut short, or a whole packet with
whatever follows it (R170, R171). -/
inductive Received : List Byte → Prop where
  | short {bytes : List Byte} (h : bytes.length < 4) : Received bytes
  | unknown {w : Word} (rest : List Byte) (h : Magic.ofNumber w = none) : Received (be32 w ++ rest)
  | cut {k : Magic} {rest : List Byte} (h : rest.length < k.plen + 4) : Received (be32 k.number ++ rest)
  | whole {k : Magic} {p : List Byte} (hp : p.length = k.plen) (crc : Word) (surplus : List Byte) :
      Received (packetBytes k p crc ++ surplus)

/-- A sequence of four bytes or more is a word and the bytes after it (R12). -/
theorem exists_be32_append {bytes : List Byte} (h : 4 ≤ bytes.length) : ∃ w rest, bytes = be32 w ++ rest := by
  match bytes with
  | b0 :: b1 :: b2 :: b3 :: rest => exact ⟨fromBe32 b0 b1 b2 b3, rest, by rw [be32_fromBe32]; rfl⟩

theorem received (bytes : List Byte) : Received bytes := by
  rcases Nat.lt_or_ge bytes.length 4 with hshort | hlen
  · exact .short hshort
  obtain ⟨w, rest, rfl⟩ := exists_be32_append hlen
  cases hw : Magic.ofNumber w with
  | none => exact .unknown rest hw
  | some k =>
    cases Magic.ofNumber_eq_some.1 hw
    rcases Nat.lt_or_ge rest.length (k.plen + 4) with hcut | hrest
    · exact .cut hcut
    · have hdrop : 4 ≤ (rest.drop k.plen).length := by rw [List.length_drop]; omega
      obtain ⟨crc, surplus, htrailer⟩ := exists_be32_append hdrop
      have hp : (rest.take k.plen).length = k.plen := List.length_take_of_le (by omega)
      have hbytes : be32 k.number ++ rest = packetBytes k (rest.take k.plen) crc ++ surplus := by
        rw [packetBytes, List.append_assoc, List.append_assoc, ← htrailer, List.take_append_drop]
      exact hbytes ▸ .whole hp crc surplus

theorem verify_short {bytes : List Byte} (h : bytes.length < 4) : verify bytes = .incomplete := by
  match bytes with
  | [] | [_] | [_, _] | [_, _, _] => rfl

theorem verify_unknown {w : Word} (rest : List Byte) (h : Magic.ofNumber w = none) :
    verify (be32 w ++ rest) = .badMagic := by
  simp only [be32, List.cons_append, verify, fromBe32_byteOf, h]

theorem verify_cut {k : Magic} {rest : List Byte} (h : rest.length < k.plen + 4) :
    verify (be32 k.number ++ rest) = .incomplete := by
  simp only [be32, List.cons_append, verify, fromBe32_byteOf, Magic.ofNumber_number]
  split
  next c0 c1 c2 c3 tail hdrop =>
    have hlen : rest.length - k.plen = tail.length + 4 := by simpa using congrArg List.length hdrop
    omega
  next => rfl

theorem verify_whole {k : Magic} {p : List Byte} (hp : p.length = k.plen) (crc : Word) (surplus : List Byte) :
    verify (packetBytes k p crc ++ surplus) =
      if crc = crc32Mpeg2 (be32 k.number ++ p) then .ok k p else .badCrc k := by
  have hdrop : (p ++ (be32 crc ++ surplus)).drop k.plen = be32 crc ++ surplus := List.drop_left' hp
  have htake : (p ++ (be32 crc ++ surplus)).take k.plen = p := List.take_left' hp
  rw [packetBytes, List.append_assoc, List.append_assoc]
  simp only [be32, List.cons_append, List.nil_append] at hdrop htake ⊢
  simp only [verify, fromBe32_byteOf, Magic.ofNumber_number, hdrop, htake]
  rfl

/-- Settles O20: an encoded packet is a whole packet whose trailer is its CRC. -/
theorem verifyAcceptsEncodedPackets : Obligations.VerifyAcceptsEncodedPackets := fun _ _ surplus hp =>
  (verify_whole hp _ surplus).trans (if_pos rfl)

end Sys2Proof.Machine
end

section
/-! PROOF. The checker agrees with `verify` (spec/43_rx_checker.md R175). A check in progress owes a number of bytes
before any verdict can fall, and each byte takes at most one from it; so the bytes `verify` calls incomplete are
answered with 0 each and leave the check open, and every verdict falls on the byte after such bytes. -/

namespace Sys2Proof.Machine

/-- How many bytes a check in progress takes at the least before its verdict: the rest of its phase and, in a payload,
the trailer (R173). -/
def leastOwed (s : State) : Nat :=
  match s.ckst with
  | .idle => 0
  | .magic | .trailer => s.ckcnt.toNat
  | .payload => s.ckcnt.toNat + 4

theorem count_toNat_pred {c : Count} (h : c ≠ 0) : c.toNat = (c - 1).toNat + 1 := by bv_omega

/-- A byte that is not the last owed gives no verdict, and takes at most one from what is owed. -/
theorem ckByteState_leastOwed (b : Byte) {s : State} (h : Checking s) (howed : 1 < leastOwed s) :
    ∃ u, ckByteState b s = some u ∧ u.ckres = none ∧ leastOwed s ≤ leastOwed u + 1 := by
  obtain ⟨-, hopen, hexp, hnone⟩ := h
  have hpred := count_toNat_pred hexp
  cases hst : s.ckst with
  | idle => exact absurd hst hopen
  | magic =>
    refine ⟨_, ckByteState_of_magic hst, ?_⟩
    simp only [leastOwed, hst] at howed
    rw [ckMagicByte_middle (count_middle howed).2]
    exact ⟨hnone, by simp only [leastOwed, hst]; omega⟩
  | payload =>
    refine ⟨_, ckByteState_of_payload hst, ?_⟩
    by_cases h1 : s.ckcnt - 1 = 0
    · rw [ckPayloadByte_last h1]
      refine ⟨hnone, ?_⟩
      simp only [leastOwed, hst]
      rw [hpred, h1]
      decide
    · rw [ckPayloadByte_middle h1]
      exact ⟨hnone, by simp only [leastOwed, hst]; omega⟩
  | trailer =>
    refine ⟨_, ckByteState_of_trailer hst, ?_⟩
    simp only [leastOwed, hst] at howed
    rw [ckTrailerByte_middle (count_middle howed).2]
    exact ⟨hnone, by simp only [leastOwed, hst]; omega⟩

/-- Fewer bytes than a check owes leave it in progress. -/
theorem ckFeedBytes_leastOwed (bytes : List Byte) {s : State} (h : Checking s) (howed : bytes.length < leastOwed s) :
    ∃ t, ckFeedBytes bytes s = .next t ∧ Checking t := by
  induction bytes generalizing s with
  | nil => exact ⟨s, rfl, h⟩
  | cons b rest ih =>
    rw [List.length_cons] at howed
    obtain ⟨u, hu, hn, hle⟩ := ckByteState_leastOwed b h (by omega)
    obtain ⟨v, hv, -, -, hgo⟩ := execCkByte_checking b h
    cases Option.some.inj (hu.symm.trans hv)
    rw [ckFeedBytes_of_noVerdict h hu hn]
    rw [hn] at hgo
    exact ih (hgo rfl) (show rest.length < leastOwed u by omega)

/-- A byte of a check that is still open after the feed completes, returns 0, and leaves the check open (R173). -/
theorem ckFeedBytes_open_cons {b : Byte} {rest : List Byte} {s t : State} (h : Checking s)
    (hfeed : ckFeedBytes (b :: rest) s = .next t) (ht : t.ckres = none) :
    ∃ u, exec (.ckByte b) s = .next (respond 0 u) ∧ Checking (respond 0 u) ∧
      ckFeedBytes rest (respond 0 u) = .next t := by
  obtain ⟨u, hu, hbyte, -, hgo⟩ := execCkByte_checking b h
  cases hv : u.ckres with
  | none =>
    rw [hv] at hbyte hgo
    exact ⟨u, hbyte, hgo rfl, (ckFeedBytes_of_noVerdict h hu hv rest).symm.trans hfeed⟩
  | some v =>
    have hstop := next_inj ((ckFeedBytes_of_verdict h hu hv rest).symm.trans hfeed)
    rw [← hstop, respond_ckres, hv] at ht
    cases ht

/-- A feed that leaves the check open is what the feed of a longer sequence begins with (R175, R245). -/
theorem ckFeedBytes_append (bytes more : List Byte) {s t : State} (h : Checking s)
    (hfeed : ckFeedBytes bytes s = .next t) (ht : t.ckres = none) :
    ckFeedBytes (bytes ++ more) s = ckFeedBytes more t := by
  induction bytes generalizing s with
  | nil => rw [← next_inj hfeed, List.nil_append]
  | cons b rest ih =>
    obtain ⟨u, hbyte, hu, hrest⟩ := ckFeedBytes_open_cons h hfeed ht
    have hbyte' : execCkByte b s = .next (respond 0 u) := hbyte
    rw [List.cons_append, ckFeedBytes_cons, hbyte', ← ih hu hrest]
    exact if_pos (returnedZero_respond.2 rfl)

/-- The bytes of a feed that leaves the check open are answered with 0 each (R175). -/
theorem runResponses_ckByte (bytes more : List Byte) {s t : State} (h : Checking s)
    (hfeed : ckFeedBytes bytes s = .next t) (ht : t.ckres = none) :
    runResponses ((bytes ++ more).map .ckByte) s = (runResponses (more.map .ckByte) t).map fun p =>
      (p.1, List.replicate bytes.length { f := false, ret := 0 } ++ p.2) := by
  induction bytes generalizing s with
  | nil => simp [← next_inj hfeed]
  | cons b rest ih =>
    obtain ⟨u, hbyte, hu, hrest⟩ := ckFeedBytes_open_cons h hfeed ht
    simp only [List.cons_append, List.map_cons, runResponses, hbyte, ih hu hrest, Option.map_map, Function.comp_def,
      respond_resp, Option.toList_some, List.length_cons, List.replicate_succ, List.nil_append]

/-- The last byte of four that are no magic gives `BADMAGIC` (R173). -/
theorem ckByteState_magic_last_unknown {b : Byte} {left : Count} {crc sh : Word} {kind : Option Magic} {s : State}
    (h : left - 1 = 0) (hw : Magic.ofNumber (shiftIn sh b) = none) :
    ckByteState b (midCheck .magic left crc sh kind s) =
      some { midCheck .idle 0 (crcStep crc b) (shiftIn sh b) kind s with ckres := some .badMagic } :=
  (ckByteState_of_magic rfl).trans (congrArg some (ckMagicByte_last_unknown h hw))

section Unlocked
variable {s : State} (hf : s.faulted = false)
include hf

theorem ckFeed_next_of_unfaulted {bytes : List Byte} {t : State} :
    ckFeed bytes s = .next t ↔ ckFeedBytes bytes (midCheck .magic 4 0xFFFFFFFF 0 none s) = .next t :=
  ⟨fun h => of_unlocked hf (ckFeed_next.1 h), fun h => ckFeed_next.2 (.inr ⟨hf, h⟩)⟩

/-- `CK.START` and the bytes of a feed that leaves the check open are answered with 0 each (R175). -/
theorem runResponses_ckAll_append {bytes : List Byte} {t : State} (hfeed : ckFeed bytes s = .next t) (ht : Checking t)
    (more : List Byte) :
    runResponses (ckAll (bytes ++ more)) s = (runResponses (more.map .ckByte) t).map fun p =>
      (p.1, List.replicate (bytes.length + 1) { f := false, ret := 0 } ++ p.2) := by
  have hbytes := runResponses_ckByte bytes more (checking_ckStartState hf 0) ((ckFeed_next_of_unfaulted hf).1 hfeed)
    ht.noVerdict
  simp only [ckAll, runResponses, exec_ckStart hf, hbytes, Option.map_map, Function.comp_def, respond_resp,
    Option.toList_some, List.replicate_succ, List.cons_append, List.nil_append]

theorem runResponses_ckAll_open {bytes : List Byte} {t : State} (hfeed : ckFeed bytes s = .next t) (ht : Checking t) :
    runResponses (ckAll bytes) s = some (t, List.replicate (bytes.length + 1) { f := false, ret := 0 }) := by
  have hrun := runResponses_ckAll_append hf hfeed ht []
  simpa [runResponses] using hrun

/-- The byte after a feed that leaves the check open: its response is the last (R175). -/
theorem runResponses_ckAll_last {bytes : List Byte} {b : Byte} {t u : State} {r : Response}
    (hfeed : ckFeed bytes s = .next t) (ht : Checking t) (hlast : ckFeed (bytes ++ [b]) s = .next u)
    (hr : u.resp = some r) :
    runResponses (ckAll (bytes ++ [b])) s =
      some (u, List.replicate (bytes.length + 1) { f := false, ret := 0 } ++ [r]) := by
  have hbyte : exec (.ckByte b) t = .next u := by
    have happend := ckFeedBytes_append bytes [b] (checking_ckStartState hf 0) ((ckFeed_next_of_unfaulted hf).1 hfeed)
      ht.noVerdict
    exact happend.symm.trans ((ckFeed_next_of_unfaulted hf).1 hlast)
  rw [runResponses_ckAll_append hf hfeed ht]
  simp [runResponses, hbyte, hr]

/-- What `verify` calls incomplete leaves the check in progress (R171, R175). -/
theorem ckFeed_of_incomplete {bytes : List Byte} (hv : verify bytes = .incomplete) :
    ∃ t, ckFeed bytes s = .next t ∧ Checking t := by
  simp only [ckFeed_next_of_unfaulted hf]
  cases received bytes with
  | short h => exact ckFeedBytes_leastOwed bytes (checking_ckStartState hf 0) h
  | unknown rest h => rw [verify_unknown rest h] at hv; cases hv
  | @cut k rest h =>
    have howed : leastOwed (midCheck .payload k.plenCount (crc32Mpeg2 (be32 k.number)) k.number (some k) s) =
        k.plen + 4 := congrArg (· + 4) k.plenCount_toNat
    rw [ckFeedBytes_magic hf]
    refine ckFeedBytes_leastOwed rest (checking_midCheck hf (by decide) ?_ ..) (howed ▸ h)
    cases k <;> decide
  | whole hp crc surplus =>
    rw [verify_whole hp] at hv
    split_ifs at hv

/-- The four bytes of a number that is no magic end the check with `BADMAGIC` (R173). -/
theorem ckFeed_unknown {w : Word} (hw : Magic.ofNumber w = none) :
    ∃ u, ckFeed (be32 w) s = .next u ∧ u.resp = some { f := false, ret := 2 } ∧ u.ckres = some .badMagic ∧
      u.ckkind = none ∧ u.ckst = .idle := by
  simp only [ckFeed_next_of_unfaulted hf]
  rw [be32, ckFeedBytes_midCheck hf (by decide) (by decide) (ckByteState_magic (by decide)),
    ckFeedBytes_midCheck hf (by decide) (by decide) (ckByteState_magic (by decide)),
    ckFeedBytes_midCheck hf (by decide) (by decide) (ckByteState_magic (by decide)),
    ckFeedBytes_of_verdict (checking_midCheck hf (by decide) (by decide) ..)
      (ckByteState_magic_last_unknown (by decide) (by rw [shiftIn_be32, hw])) rfl]
  exact ⟨_, rfl, rfl, rfl, rfl, rfl⟩

/-- The four bytes of a number that is no magic: the last is answered with 2 (R175). -/
theorem runResponses_ckAll_unknown {w : Word} (hw : Magic.ofNumber w = none) :
    ∃ t, runResponses (ckAll (be32 w)) s =
        some (t, List.replicate 4 { f := false, ret := 0 } ++ [{ f := false, ret := 2 }]) ∧
      t.ckres = some .badMagic ∧ t.ckkind = none ∧ t.ckst = .idle := by
  obtain ⟨u, hfeed, hresp, hres, hkind, hst⟩ := ckFeed_unknown hf hw
  obtain ⟨t, hopen, ht⟩ := ckFeed_of_incomplete hf (bytes := [byteOf w 3, byteOf w 2, byteOf w 1])
    (verify_short (by simp))
  exact ⟨u, runResponses_ckAll_last hf hopen ht hfeed hresp, hres, hkind, hst⟩

/-- A whole packet: the last byte of its trailer is answered with the verdict (R175). -/
theorem runResponses_ckAll_packet (k : Magic) {p : List Byte} (hp : p.length = k.plen) (crc : Word) :
    runResponses (ckAll (packetBytes k p crc)) s = some (checkedPacket k p crc s,
      List.replicate (k.plen + 8) { f := false, ret := 0 } ++
        [{ f := false, ret := if crc = crc32Mpeg2 (be32 k.number ++ p) then 1 else 3 }]) := by
  have hsplit : packetBytes k p crc =
      be32 k.number ++ (p ++ [byteOf crc 3, byteOf crc 2, byteOf crc 1]) ++ [byteOf crc 0] := by
    simp [packetBytes, be32]
  have hlast := ckFeed_packetBytes hf k hp crc
  obtain ⟨t, hopen, ht⟩ := ckFeed_of_incomplete hf
    (verify_cut (k := k) (rest := p ++ [byteOf crc 3, byteOf crc 2, byteOf crc 1]) (by simp [hp]))
  have hlen : (be32 k.number ++ (p ++ [byteOf crc 3, byteOf crc 2, byteOf crc 1])).length + 1 = k.plen + 8 := by
    simp only [List.length_append, be32_length, hp, List.length_cons, List.length_nil]
    omega
  rw [hsplit] at hlast ⊢
  rw [runResponses_ckAll_last hf hopen ht hlast rfl, hlen]

end Unlocked

/-- The CRC over a whole packet is zero exactly when the trailer is the packet's own (R132 (c)). -/
theorem crc32Mpeg2_packetBytes_eq_zero {k : Magic} {p : List Byte} {crc : Word} :
    crc32Mpeg2 (packetBytes k p crc) = 0 ↔ crc = crc32Mpeg2 (be32 k.number ++ p) := by
  rw [packetBytes, crc32Mpeg2, crcBytes_append]
  exact (crcBytes_four_eq_zero ..).trans ⟨be32_injective, congrArg be32⟩

/-- Settles O21: on each shape of byte sequence the checker's run is set against what `verify` says of it. -/
theorem checkerAgreesWithVerify : Obligations.CheckerAgreesWithVerify := by
  intro s bytes hf
  have hincomplete : verify bytes = .incomplete → ∃ t, runResponses (ckAll bytes) s =
      some (t, List.replicate (bytes.length + 1) { f := false, ret := 0 }) ∧ t.ckst ≠ .idle := fun hv => by
    obtain ⟨t, hfeed, ht⟩ := ckFeed_of_incomplete hf hv
    exact ⟨t, runResponses_ckAll_open hf hfeed ht, ht.open'⟩
  cases received bytes with
  | short h =>
    rw [verify_short h] at hincomplete ⊢
    exact ⟨nofun, nofun, nofun, hincomplete⟩
  | unknown rest h =>
    rw [verify_unknown rest h]
    exact ⟨nofun, nofun, fun _ => runResponses_ckAll_unknown hf h, nofun⟩
  | cut h =>
    rw [verify_cut h] at hincomplete ⊢
    exact ⟨nofun, nofun, nofun, hincomplete⟩
  | @whole k p hp crc surplus =>
    have htake : (packetBytes k p crc ++ surplus).take (k.plen + 8) = packetBytes k p crc :=
      List.take_left' (by rw [packetBytes_length, hp])
    have hrun := runResponses_ckAll_packet hf k hp crc
    rw [verify_whole hp]
    by_cases hcrc : crc = crc32Mpeg2 (be32 k.number ++ p)
    · rw [if_pos hcrc] at hrun ⊢
      refine ⟨fun k' p' hv => ?_, nofun, nofun, nofun⟩
      cases hv
      rw [htake]
      exact ⟨_, hrun, congrArg some (if_pos hcrc), rfl, rfl, crc32Mpeg2_packetBytes_eq_zero.2 hcrc⟩
    · rw [if_neg hcrc] at hrun ⊢
      refine ⟨nofun, fun k' hv => ?_, nofun, nofun⟩
      cases hv
      rw [htake]
      exact ⟨_, hrun, congrArg some (if_neg hcrc), rfl, rfl, mt crc32Mpeg2_packetBytes_eq_zero.1 hcrc⟩

end Sys2Proof.Machine
end

section
/-! PROOF. `find` (spec/44_rx_line.md R192): the place, among the line's suffixes from the longest to the shortest, of
the first that begins with the pattern. -/

namespace Sys2Proof.Machine

theorem find_eq_findIdx_tails (pat line : List Byte) : find pat line = line.tails.findIdx? pat.isPrefixOf := by
  induction line with
  | nil => cases pat <;> rfl
  | cons b rest ih => rw [find, ih, List.tails_cons, List.findIdx?_cons]

theorem find_eq_some {pat line : List Byte} {i : Nat} :
    find pat line = some i ↔ i ≤ line.length ∧ pat <+: line.drop i ∧ ∀ j < i, ¬ pat <+: line.drop j := by
  simp only [find_eq_findIdx_tails, List.findIdx?_eq_some_iff_getElem, List.getElem_tails, List.length_tails,
    List.isPrefixOf_iff_prefix, Nat.lt_succ_iff, exists_prop]

theorem find_eq_none {pat line : List Byte} : find pat line = none ↔ ∀ i, ¬ pat <+: line.drop i := by
  simp only [find_eq_findIdx_tails, List.findIdx?_eq_none_iff, List.mem_tails, Bool.eq_false_iff, ne_eq,
    List.isPrefixOf_iff_prefix]
  refine ⟨fun h i => h _ (List.drop_suffix i line), fun h rest hrest => ?_⟩
  rw [List.suffix_iff_eq_drop.1 hrest]
  exact h _

/-- A pattern is found exactly when it stands anywhere in the line (R195). -/
theorem find_isSome {pat line : List Byte} : (find pat line).isSome = true ↔ pat <:+: line := by
  simp only [find_eq_findIdx_tails, List.findIdx?_isSome, List.any_eq_true, List.mem_tails, List.isPrefixOf_iff_prefix,
    List.infix_iff_prefix_suffix, and_comm]

/-- A 4-byte pattern begins a suffix exactly when it is the suffix's first four bytes. -/
theorem prefix_drop_iff_take {pat : List Byte} (hpat : pat.length = 4) (line : List Byte) (i : Nat) :
    pat <+: line.drop i ↔ (line.drop i).take 4 = pat := by
  rw [List.prefix_iff_eq_take, hpat, eq_comm]

theorem add_four_le_of_take_eq {pat line : List Byte} (hpat : pat.length = 4) {i : Nat}
    (h : (line.drop i).take 4 = pat) : i + 4 ≤ line.length := by
  have hlen := congrArg List.length h
  rw [List.length_take, List.length_drop, hpat] at hlen
  omega

/-- Settles O25: a pattern that stands at an offset has its four bytes in the line. -/
theorem findIsSmallestOffset : Obligations.FindIsSmallestOffset := by
  intro pat line hpat
  simp only [find_eq_some, find_eq_none, prefix_drop_iff_take hpat]
  refine ⟨fun i => ⟨fun ⟨_, hstands, hfirst⟩ => ⟨add_four_le_of_take_eq hpat hstands, hstands, hfirst⟩,
    fun ⟨hroom, hstands, hfirst⟩ => ⟨by omega, hstands, hfirst⟩⟩, fun h i _ => h i, fun h i hstands => ?_⟩
  exact h i (add_four_le_of_take_eq hpat hstands) hstands

end Sys2Proof.Machine
end

section
/-! PROOF. The two classifications of a line (spec/44_rx_line.md R193, R195). -/

namespace Sys2Proof.Machine

theorem decodeResponse_of_absent {line : List Byte} (h : find respPattern line = none) :
    decodeResponse line = .notFound := by
  rw [decodeResponse, h]

theorem decodeResponse_of_cut {line : List Byte} {i : Nat} (h : find respPattern line = some i)
    (hcut : line.length < i + 8) : decodeResponse line = .notFound := by
  have hlen : (line.drop (i + 4)).length < 4 := by rw [List.length_drop]; omega
  rw [decodeResponse, h]
  dsimp only
  split
  · next hrest =>
    rw [hrest, List.length_cons, List.length_cons, List.length_cons, List.length_cons] at hlen
    omega
  · rfl

/-- The four bytes after the first `RESP` are the value, least significant first. -/
theorem decodeResponse_of_value {line : List Byte} {i : Nat} {v : Word} (h : find respPattern line = some i)
    (hv : (line.drop (i + 4)).take 4 = le32 v) : decodeResponse line = classifyValue v := by
  have hrest : line.drop (i + 4) = le32 v ++ (line.drop (i + 4)).drop 4 := by rw [← hv, List.take_append_drop]
  rw [decodeResponse, h]
  dsimp only
  rw [hrest]
  exact congrArg classifyValue (fromLe32_byteOf v)

/-- Settles O26: no magic, a magic with fewer than four bytes after it, and the three classes of the value. -/
theorem decodeResponseOutcomes : Obligations.DecodeResponseOutcomes := by
  refine ⟨fun _ => decodeResponse_of_absent, fun _ _ hfind => ⟨decodeResponse_of_cut hfind, fun v _ hv => ?_⟩⟩
  rw [decodeResponse_of_value hfind hv, classifyValue]
  exact ⟨fun hs => if_pos hs, fun hf => by rw [hf]; rfl, fun hs hf => by rw [if_neg hs, if_neg hf]⟩

/-- Settles O28: whether each token is found is whether it stands in the line. -/
theorem classifyStatusLineOutcomes : Obligations.ClassifyStatusLineOutcomes := by
  intro priority line
  have hfound : ∀ {pat}, pat <:+: line → (find pat line).isSome = true := find_isSome.2
  have habsent : ∀ {pat}, ¬ pat <:+: line → (find pat line).isSome = false := fun h =>
    Bool.eq_false_iff.2 (mt find_isSome.1 h)
  unfold classifyStatusLine ackwPattern nackPattern
  refine ⟨fun ha hn => ?_, fun hn ha => ?_, fun ha hn => ?_, fun ha hn => ?_⟩
  · rw [hfound ha, habsent hn]
  · rw [habsent ha, hfound hn]
  · cases priority <;> rw [hfound ha, hfound hn]
  · rw [habsent ha, habsent hn]

end Sys2Proof.Machine
end

section
/-! PROOF. The operations of the line recogniser (spec/44_rx_line.md R190, R191, R194, R196). -/

namespace Sys2Proof.Machine

theorem exec_lnClear {s : State} (hf : s.faulted = false) :
    exec .lnClear s = .next (respond 0 { s with ln := [], rclass := none, rval := 0, sclass := none }) :=
  execLnClear_next.2 (.inr ⟨hf, rfl⟩)

theorem exec_lnByte {s : State} (hf : s.faulted = false) (hroom : s.ln.length < s.params.lineMax) (b : Byte) :
    exec (.lnByte b) s = .next (respond (lengthWord (s.ln.length + 1)) { s with ln := s.ln ++ [b] }) :=
  execLnByte_next.2 (.inr ⟨hf, .inr ⟨hroom.ne, rfl⟩⟩)

theorem exec_lnByte_full {s : State} (hf : s.faulted = false) (hfull : s.ln.length = s.params.lineMax) (b : Byte) :
    exec (.lnByte b) s = .next (takeFault .errOvf s) :=
  execLnByte_next.2 (.inr ⟨hf, .inl ⟨hfull, rfl⟩⟩)

theorem exec_lnResp {s : State} (hf : s.faulted = false) {o : ResponseOutcome} (ho : decodeResponse s.ln = o) :
    exec .lnResp s =
      .next (respond (rclassCode (some o.cls)) { s with rclass := some o.cls, rval := o.value }) :=
  execLnResp_next.2 (.inr ⟨hf, by rw [ho]⟩)

theorem exec_lnStat {s : State} (hf : s.faulted = false) {c : StatusClass}
    (hc : classifyStatusLine s.params.statusPriority s.ln = c) :
    exec .lnStat s = .next (respond (sclassCode (some c)) { s with sclass := some c }) :=
  execLnStat_next.2 (.inr ⟨hf, by rw [hc]⟩)

/-- Settles O23: opcode 40 has class N, and the operation stands under the lock. -/
theorem lnClearOperation : Obligations.LnClearOperation :=
  have henc : EncodesNone 0x40 .lnClear := encodesNone_of_class rfl
  ⟨henc, henc.faultsWithErrOp, refusedWhileFaulted_of_unit (by decide), fun _ hf => exec_lnClear hf⟩

/-- Settles O24: opcode 41 has class B, the operation stands under the lock, and a byte is appended or finds the buffer
full. -/
theorem lnByteOperation : Obligations.LnByteOperation := by
  have henc : EncodesByte 0x41 .lnByte := encodesByte_of_class rfl
  refine ⟨henc, henc.faultsWithErrOp, fun b => refusedWhileFaulted_of_unit (by simp [unitOf]),
    fun s b hf hroom => ⟨_, exec_lnByte hf hroom b, lengthWord_toNat⟩, fun s b hf hfull => ?_⟩
  rw [exec_lnByte_full hf hfull b, takeFault_of_unfaulted hf, faultedWith]

/-- Settles O27: opcode 42 has class N, the operation stands under the lock, and each outcome has its class, its value
and its code. -/
theorem lnRespOperation : Obligations.LnRespOperation :=
  have henc : EncodesNone 0x42 .lnResp := encodesNone_of_class rfl
  ⟨henc, henc.faultsWithErrOp, refusedWhileFaulted_of_unit (by decide),
    fun _ hf => ⟨fun _ => exec_lnResp hf, fun _ => exec_lnResp hf, fun _ => exec_lnResp hf, exec_lnResp hf⟩⟩

/-- Settles O29: opcode 43 has class N, the operation stands under the lock, and each class has its code. -/
theorem lnStatOperation : Obligations.LnStatOperation :=
  have henc : EncodesNone 0x43 .lnStat := encodesNone_of_class rfl
  ⟨henc, henc.faultsWithErrOp, refusedWhileFaulted_of_unit (by decide),
    fun _ hf => ⟨exec_lnStat hf, exec_lnStat hf, exec_lnStat hf⟩⟩

end Sys2Proof.Machine
end

section
/-! PROOF. Loading a line and classifying it (spec/44_rx_line.md R197). -/

namespace Sys2Proof.Machine

theorem runInstrs_append {first : List Instr} {s t : State} (h : runInstrs first s = .next t) (rest : List Instr) :
    runInstrs (first ++ rest) s = runInstrs rest t := by
  induction first generalizing s with
  | nil => rw [next_inj h, List.nil_append]
  | cons i first ih =>
    cases hi : exec i s with
    | next u =>
      rw [runInstrs_cons hi] at h
      rw [List.cons_append, runInstrs_cons hi, ih h]
    | fault => simp [runInstrs, hi] at h
    | refused => simp [runInstrs, hi] at h

/-- After a fault the lock refuses one operation of a unit after the other (R284, R287). -/
theorem runInstrs_takeFault {is : List Instr} (his : ∀ i ∈ is, unitOf i ≠ .system) (e : FaultCode) (s : State) :
    runInstrs is (takeFault e s) = .next (takeFault e s) := by
  induction is with
  | nil => rfl
  | cons i rest ih =>
    obtain ⟨hi, hrest⟩ := List.forall_mem_cons.1 his
    rw [runInstrs_cons (exec_of_faulted hi (takeFault_faulted e s)), refuse_takeFault, ih hrest]

/-- `LN.BYTE` of each byte appends the bytes, while they fit (R191). -/
theorem runInstrs_lnByte (bytes : List Byte) {s : State} (hf : s.faulted = false)
    (hroom : s.ln.length + bytes.length ≤ s.params.lineMax) :
    ∃ r, runInstrs (bytes.map .lnByte) s = .next { s with ln := s.ln ++ bytes, resp := r } := by
  induction bytes generalizing s with
  | nil => exact ⟨s.resp, by rw [List.append_nil]; rfl⟩
  | cons b rest ih =>
    rw [List.length_cons] at hroom
    rw [List.map_cons, runInstrs_cons (exec_lnByte hf (by omega) b), List.append_cons s.ln b rest]
    have hleft : (s.ln ++ [b]).length + rest.length ≤ s.params.lineMax := by
      rw [List.length_append, List.length_singleton]
      omega
    exact ih (s := respond (lengthWord (s.ln.length + 1)) { s with ln := s.ln ++ [b] }) hf hleft

/-- The state with a line in the buffer that nothing has classified yet, and some response. -/
def lineLoaded (line : List Byte) (r : Option Response) (s : State) : State :=
  { s with ln := line, rclass := none, rval := 0, sclass := none, resp := r }

/-- `LN.LOAD` of a line that fits leaves the line, and nothing of an earlier one (R190, R191, R245). -/
theorem runInstrs_lnLoad {line : List Byte} {s : State} (hf : s.faulted = false)
    (hfits : line.length ≤ s.params.lineMax) :
    ∃ r, runInstrs (lnLoad line) s = .next (lineLoaded line r s) := by
  rw [lnLoad, runInstrs_cons (exec_lnClear hf)]
  exact runInstrs_lnByte line (s := respond 0 _) hf (by simpa using hfits)

/-- A line too long: the byte at offset `LINE_MAX` finds the buffer full, and the lock refuses those after it. -/
theorem runInstrs_lnLoad_overflow {line : List Byte} {s : State} (hf : s.faulted = false)
    (hfull : line.length = s.params.lineMax) (b : Byte) (more : List Byte) :
    ∃ r, runInstrs (lnLoad (line ++ b :: more)) s = .next (takeFault .errOvf (lineLoaded line r s)) := by
  obtain ⟨r, hload⟩ := runInstrs_lnLoad hf hfull.le
  have hunit : ∀ i ∈ more.map Instr.lnByte, unitOf i ≠ .system := by simp [unitOf]
  have hsplit : lnLoad (line ++ b :: more) = lnLoad line ++ .lnByte b :: more.map .lnByte := by simp [lnLoad]
  refine ⟨r, ?_⟩
  rw [hsplit, runInstrs_append hload, runInstrs_cons (exec_lnByte_full (s := lineLoaded line r s) hf hfull b),
    runInstrs_takeFault hunit]

/-- Settles O30: a line that fits is classified as it was loaded; of a longer one the first byte past the buffer
faults. -/
theorem lineSequenceClassifies : Obligations.LineSequenceClassifies := by
  refine fun s line hf => ⟨fun hfits => ?_, fun b more hfull => ⟨?_, ?_⟩⟩
  · obtain ⟨r, hload⟩ := runInstrs_lnLoad hf hfits
    rw [runInstrs_append hload, runInstrs_cons (exec_lnResp (s := lineLoaded line r s) hf rfl)]
    exact ⟨_, runInstrs_cons (exec_lnStat (by exact hf) rfl) [], hf, rfl, rfl, rfl, rfl⟩
  · obtain ⟨r, hload⟩ := runInstrs_lnLoad hf hfull.le
    exact ⟨_, hload, hf⟩
  · obtain ⟨r, hover⟩ := runInstrs_lnLoad_overflow hf hfull b more
    have hfirst : (takeFault .errOvf (lineLoaded line r s)).err = some .errOvf := by
      rw [takeFault_of_unfaulted (s := lineLoaded line r s) hf]
    exact ⟨_, hover, takeFault_faulted .., hfirst, takeFault_ln ..⟩

end Sys2Proof.Machine
end

section
/-! PROOF. The cipher's stream transform (spec/45_cipher.md R210, R212): byte `i` of the buffer meets key byte
`i mod 4`, so each law of the transform is a law of the key bytes. -/

namespace Sys2Proof.Machine

/-! ### The key bytes -/

/-- The low byte of a word, zero-extended, is the word under the mask `FF`. -/
theorem lowByte_setWidth (w : Word) : (w.setWidth 8).setWidth 32 = w &&& 0xFF := by
  apply BitVec.eq_of_toNat_eq
  rw [BitVec.toNat_and, BitVec.toNat_setWidth, BitVec.toNat_setWidth]
  have hmask : w.toNat &&& (0xFF : Word).toNat = w.toNat % 2 ^ 8 := Nat.and_two_pow_sub_one_eq_mod w.toNat 8
  omega

/-- The key byte as R210 and R217 write it, zero-extended. -/
theorem keyByte_setWidth (key : Word) (i : Nat) :
    (keyByte key i).setWidth 32 = (key >>> (8 * (i % 4))) &&& 0xFF := lowByte_setWidth _

theorem keyByte_eq_masked (key : Word) (i : Nat) :
    keyByte key i = ((key >>> (8 * (i % 4))) &&& 0xFF).setWidth 8 := by
  rw [← keyByte_setWidth, BitVec.setWidth_setWidth_of_le _ (by decide), BitVec.setWidth_eq]

theorem keyByte_xor (k1 k2 : Word) (i : Nat) : keyByte (k1 ^^^ k2) i = keyByte k1 i ^^^ keyByte k2 i :=
  byteOf_xor k1 k2 (i % 4)

theorem keyByte_add_four (key : Word) (i : Nat) : keyByte key (i + 4) = keyByte key i := by
  rw [keyByte, Nat.add_mod_right, keyByte]

theorem keyByte_zero (i : Nat) : keyByte 0 i = 0 := by
  simp [keyByte, byteOf]

theorem keyByte_allOnes (i : Nat) : keyByte 0xFFFFFFFF i = BitVec.allOnes 8 := by
  have hmod : ∀ j < 4, byteOf 0xFFFFFFFF j = BitVec.allOnes 8 := by decide
  exact hmod (i % 4) (Nat.mod_lt i (by decide))

/-- The key bytes are the key's bytes, least significant first, over and over (R210). -/
theorem le32_getElem?_mod (key : Word) (i : Nat) : (le32 key)[i % 4]? = some (keyByte key i) := by
  have hlt := Nat.mod_lt i (show 4 > 0 by decide)
  unfold keyByte
  interval_cases i % 4 <;> rfl

/-! ### The transform, byte by byte -/

theorem xorFrom_eq_mapIdx (key : Word) (i : Nat) (data : List Byte) :
    xorFrom key i data = data.mapIdx fun j b => b ^^^ keyByte key (i + j) := by
  induction data generalizing i with
  | nil => rfl
  | cons b rest ih =>
    rw [xorFrom, ih, List.mapIdx_cons]
    simp only [Nat.add_zero, Nat.add_right_comm i 1, Nat.add_assoc]

theorem xorTransform_eq_mapIdx (data : List Byte) (key : Word) :
    xorTransform data key = data.mapIdx fun i b => b ^^^ keyByte key i := by
  simp only [xorTransform, xorFrom_eq_mapIdx, Nat.zero_add]

@[simp] theorem xorTransform_length (data : List Byte) (key : Word) :
    (xorTransform data key).length = data.length := by
  rw [xorTransform_eq_mapIdx, List.length_mapIdx]

theorem xorTransform_getElem? (data : List Byte) (key : Word) (i : Nat) :
    (xorTransform data key)[i]? = data[i]?.map (· ^^^ keyByte key i) := by
  rw [xorTransform_eq_mapIdx, List.getElem?_mapIdx]

/-- Settles O36: each byte meets its key byte, which is the shifted key under the mask `FF`. -/
theorem xorTransformFormula : Obligations.XorTransformFormula := by
  refine fun data key => ⟨xorTransform_length data key, fun i b hb => ?_⟩
  rw [xorTransform_getElem?, hb, keyByte_eq_masked]
  rfl

/-! ### The laws -/

/-- Two passes are one pass with the XOR of the keys (R212 (e)). -/
theorem xorTransform_xorTransform (data : List Byte) (k1 k2 : Word) :
    xorTransform (xorTransform data k1) k2 = xorTransform data (k1 ^^^ k2) := by
  simp only [xorTransform_eq_mapIdx, List.mapIdx_mapIdx, Function.comp_def, keyByte_xor, BitVec.xor_assoc]

theorem xorTransform_zero (data : List Byte) : xorTransform data 0 = data := by
  refine List.ext_getElem? fun i => ?_
  rw [xorTransform_getElem?, keyByte_zero]
  simp

theorem xorTransform_allOnes (data : List Byte) : xorTransform data 0xFFFFFFFF = data.map (~~~ ·) := by
  refine List.ext_getElem? fun i => ?_
  simp only [xorTransform_getElem?, keyByte_allOnes, BitVec.xor_allOnes, List.getElem?_map]

/-- Encrypting and decrypting are the same operation: the two passes' keys cancel (R212 (a)). -/
theorem xorTransform_involutive (data : List Byte) (key : Word) : xorTransform (xorTransform data key) key = data := by
  rw [xorTransform_xorTransform, BitVec.xor_self]
  exact xorTransform_zero data

theorem xor_xor_xor_cancel (a b k : Byte) : (a ^^^ k) ^^^ (b ^^^ k) = a ^^^ b := by
  simp [BitVec.xor_comm b k, BitVec.xor_assoc]

/-- The XOR of two transforms under one key does not depend on the key (R212 (d)). -/
theorem zipWith_xorTransform (a b : List Byte) (key : Word) :
    List.zipWith (· ^^^ ·) (xorTransform a key) (xorTransform b key) = List.zipWith (· ^^^ ·) a b := by
  refine List.ext_getElem? fun i => ?_
  rw [List.getElem?_zipWith, List.getElem?_zipWith, xorTransform_getElem?, xorTransform_getElem?]
  cases a[i]? <;> cases b[i]? <;> simp [xor_xor_xor_cancel]

theorem xorTransform_replicate_zero {n i : Nat} (h : i < n) (key : Word) :
    (xorTransform (List.replicate n 0) key)[i]? = some (keyByte key i) := by
  rw [xorTransform_getElem?, List.getElem?_replicate_of_lt h, Option.map_some]
  exact congrArg some BitVec.zero_xor

end Sys2Proof.Machine
end

section
/-! PROOF. The cipher's group mode (spec/45_cipher.md R211, R213): the key bytes have period 4, so the stream index may
start again at each group. -/

namespace Sys2Proof.Machine

theorem xorFrom_add_four (key : Word) (i : Nat) (data : List Byte) : xorFrom key (i + 4) data = xorFrom key i data := by
  simp only [xorFrom_eq_mapIdx, Nat.add_right_comm i 4, keyByte_add_four]

/-- Stream mode takes a buffer group by group, the index starting at 0 in each (R213). -/
theorem xorTransform_group (g0 g1 g2 g3 : Byte) (rest : List Byte) (key : Word) :
    xorTransform (g0 :: g1 :: g2 :: g3 :: rest) key =
      (g0 ^^^ keyByte key 0) :: (g1 ^^^ keyByte key 1) :: (g2 ^^^ keyByte key 2) :: (g3 ^^^ keyByte key 3) ::
        xorTransform rest key := by
  simp only [xorTransform, xorFrom, ← xorFrom_add_four key 0 rest]

/-- Group mode is stream mode, on whole groups only (R211, R213). -/
theorem xorGroup_eq (data : List Byte) (key : Word) :
    xorGroup data key = if data.length % 4 = 0 then some (xorTransform data key) else none :=
  match data with
  | [] => rfl
  | [_] | [_, _] | [_, _, _] => rfl
  | g0 :: g1 :: g2 :: g3 :: rest => by
    rw [xorGroup, xorGroup_eq rest key, xorTransform_group]
    simp only [List.length_cons, Nat.add_assoc, Nat.reduceAdd, Nat.add_mod_right]
    split_ifs <;> rfl

theorem xorGroup_eq_some {data out : List Byte} {key : Word} :
    xorGroup data key = some out ↔ data.length % 4 = 0 ∧ xorTransform data key = out := by
  rw [xorGroup_eq, Option.ite_none_right_eq_some, Option.some_inj]

theorem xorGroup_involutive {data out : List Byte} {key : Word} (h : xorGroup data key = some out) :
    xorGroup out key = some data := by
  obtain ⟨hlen, rfl⟩ := xorGroup_eq_some.1 h
  exact xorGroup_eq_some.2 ⟨by rw [xorTransform_length, hlen], xorTransform_involutive data key⟩

/-- One group is a 32-bit XOR of the key with the group read little-endian (R211). -/
theorem xorGroup_word (g0 g1 g2 g3 : Byte) (key : Word) :
    xorGroup [g0, g1, g2, g3] key = some (le32 (fromLe32 g0 g1 g2 g3 ^^^ key)) := by
  rw [← fromLe32_xor_keyByte, le32_fromLe32]
  rfl

/-- Settles O37: each law is one of the key bytes, and group mode takes its involution from stream mode. -/
theorem cipherLaws : Obligations.CipherLaws :=
  ⟨xorTransform_involutive, fun _ _ _ => xorGroup_involutive, xorTransform_length,
    fun data => ⟨xorTransform_zero data, xorTransform_allOnes data⟩, fun a b key _ => zipWith_xorTransform a b key,
    fun _ i key hi => (xorTransform_replicate_zero hi key).trans (le32_getElem?_mod key i).symm,
    xorTransform_xorTransform⟩

/-- Settles O38: group mode has a result on whole groups only, and there it is stream mode's. -/
theorem groupModeAgreesWithStreamMode : Obligations.GroupModeAgreesWithStreamMode :=
  ⟨fun data key hlen => (xorGroup_eq data key).trans (if_pos hlen),
    fun data key hlen => (xorGroup_eq data key).trans (if_neg hlen), xorGroup_word⟩

end Sys2Proof.Machine
end

section
/-! PROOF. The operations of the cipher (spec/45_cipher.md R214 to R218). -/

namespace Sys2Proof.Machine

theorem exec_keyLoad {s : State} (hf : s.faulted = false) (k : Word) :
    exec (.keyLoad k) s = .next (respond 0 { s with key := k, keyv := true, kidx := 0 }) :=
  execKeyLoad_next.2 (.inr ⟨hf, rfl⟩)

theorem exec_keyClr {s : State} (hf : s.faulted = false) :
    exec .keyClr s = .next (respond 0 { s with key := 0, keyv := false, kidx := 0 }) :=
  execKeyClr_next.2 (.inr ⟨hf, rfl⟩)

theorem exec_xSync {s : State} (hf : s.faulted = false) : exec .xSync s = .next (respond 0 { s with kidx := 0 }) :=
  execXSync_next.2 (.inr ⟨hf, rfl⟩)

theorem exec_xByte {s : State} (hf : s.faulted = false) (hv : s.keyv = true) (b : Byte) :
    exec (.xByte b) s =
      .next (respond ((b ^^^ keyByte s.key s.kidx.toNat).setWidth 32) { s with kidx := s.kidx + 1 }) :=
  execXByte_next.2 (.inr ⟨hf, .inr ⟨hv, rfl⟩⟩)

theorem exec_xByte_noKey {s : State} (hf : s.faulted = false) (hv : s.keyv = false) (b : Byte) :
    exec (.xByte b) s = .next (faultedWith .errKey s) :=
  execXByte_next.2 (.inr ⟨hf, .inl ⟨hv, (takeFault_of_unfaulted hf .errKey).symm⟩⟩)

theorem exec_xGrp {s : State} (hf : s.faulted = false) (hv : s.keyv = true) (w : Word) :
    exec (.xGrp w) s = .next (respond (w ^^^ s.key) s) :=
  execXGrp_next.2 (.inr ⟨hf, .inr ⟨hv, rfl⟩⟩)

theorem exec_xGrp_noKey {s : State} (hf : s.faulted = false) (hv : s.keyv = false) (w : Word) :
    exec (.xGrp w) s = .next (faultedWith .errKey s) :=
  execXGrp_next.2 (.inr ⟨hf, .inl ⟨hv, (takeFault_of_unfaulted hf .errKey).symm⟩⟩)

/-- The stream index is below 4, so it stands in R217's shift as it is. -/
theorem xByte_ret (b : Byte) (key : Word) (kidx : BitVec 2) :
    (b ^^^ keyByte key kidx.toNat).setWidth 32 = b.setWidth 32 ^^^ ((key >>> (8 * kidx.toNat)) &&& 0xFF) := by
  rw [BitVec.setWidth_xor, keyByte_setWidth, Nat.mod_eq_of_lt kidx.isLt]

/-- `KIDX` counts modulo 4. -/
theorem ofNat_two_mod_four (n : Nat) : BitVec.ofNat 2 (n % 4) = BitVec.ofNat 2 n :=
  BitVec.eq_of_toNat_eq (Nat.mod_mod n 4)

theorem kidx_succ (kidx : BitVec 2) : kidx + 1 = BitVec.ofNat 2 ((kidx.toNat + 1) % 4) := by
  bv_omega

/-- Settles O31: opcode 50 has class W, and the operation stands under the lock. -/
theorem keyLoadOperation : Obligations.KeyLoadOperation :=
  ⟨encodesWord_of_class rfl, fun _ => refusedWhileFaulted_of_unit (by simp [unitOf]), fun _ k hf => exec_keyLoad hf k⟩

/-- Settles O32: opcode 51 has class N, and the operation stands under the lock. -/
theorem keyClrOperation : Obligations.KeyClrOperation :=
  have henc : EncodesNone 0x51 .keyClr := encodesNone_of_class rfl
  ⟨henc, henc.faultsWithErrOp, refusedWhileFaulted_of_unit (by decide), fun _ hf => exec_keyClr hf⟩

/-- Settles O33: opcode 52 has class N, and the operation stands under the lock. -/
theorem xSyncOperation : Obligations.XSyncOperation :=
  have henc : EncodesNone 0x52 .xSync := encodesNone_of_class rfl
  ⟨henc, henc.faultsWithErrOp, refusedWhileFaulted_of_unit (by decide), fun _ hf => exec_xSync hf⟩

/-- Settles O34: opcode 53 has class B, the operation stands under the lock, and with no key it faults before the index
moves. -/
theorem xByteOperation : Obligations.XByteOperation := by
  have henc : EncodesByte 0x53 .xByte := encodesByte_of_class rfl
  refine ⟨henc, henc.faultsWithErrOp, fun _ => refusedWhileFaulted_of_unit (by simp [unitOf]), fun s b hf hv => ?_,
    fun s b hf hv => exec_xByte_noKey hf hv b⟩
  rw [exec_xByte hf hv, xByte_ret, kidx_succ]
  rfl

/-- Settles O35: opcode 54 has class W, the operation stands under the lock, and a group needs the key alone. -/
theorem xGrpOperation : Obligations.XGrpOperation :=
  ⟨encodesWord_of_class rfl, fun _ => refusedWhileFaulted_of_unit (by simp [unitOf]),
    fun _ w hf hv => exec_xGrp hf hv w, fun _ w hf hv => exec_xGrp_noKey hf hv w⟩

/-- Settles O39: the run of `X.BYTE` from stream index 0. -/
theorem streamOfBytesIsXorTransform : Obligations.StreamOfBytesIsXorTransform := by
  intro s data hf hv hi
  obtain ⟨r, hrun⟩ := runResponses_xByte data (i := 0) hf hv hi
  refine ⟨_, hrun, ?_⟩
  rw [ofNat_two_mod_four, Nat.zero_add]

end Sys2Proof.Machine
end

section
/-! PROOF. The system operations `RESET` and `RD` (spec/46_system.md R231, R232): both are accepted while the block is
faulted, and `RD` reads the register list of R28. -/

namespace Sys2Proof.Machine

/-- A command word that names no instruction is refused by the lock (R103, R284). -/
theorem runInput_refuse_of_error {op : Byte} {imm : Word} {e : DecodeError}
    (h : decodeCommand (commandWord op imm) = .error e) {s : State} (hf : s.faulted = true) :
    runInput (.command (commandWord op imm)) s = .next (refuse s) := by
  rw [runInput_of_error (x := .command (commandWord op imm)) h]
  exact congrArg Host.Outcome.next (takeFault_of_faulted hf .errOp)

/-! ### `RESET` -/

/-- Settles O2: opcode 01 has class N, and the state `RESET` leaves is R33's in all but what it keeps, so a second
`RESET` makes the same state again. -/
theorem resetOperation : Obligations.ResetOperation :=
  have henc : EncodesNone 0x01 .reset := encodesNone_of_class rfl
  ⟨henc, henc.faultsWithErrOp,
    fun imm _ himm hf => runInput_refuse_of_error ((henc imm).trans (if_neg himm)) hf,
    fun _ => ⟨_, execReset_next.2 rfl, atReset_resetWith _ _ _ _, rfl, rfl, rfl, rfl, execReset_next.2 rfl⟩⟩

/-! ### `RD` -/

/-- The assigned registers in the order of their numbers (R28). -/
def registerList (s : State) : List Word :=
  [statusWord s, errCode s.err, s.crc, s.txcrc, s.txrem.setWidth 32, s.ckcrc, s.ckcnt.setWidth 32, s.cksh, s.rval,
    lengthWord s.ln.length]

theorem registerValue_eq_getElem? (s : State) (r : Byte) : registerValue s r = (registerList s)[r.toNat]? := by
  by_cases hr : r.toNat ≤ 9
  · unfold registerValue
    interval_cases r.toNat <;> rfl
  · rw [registerValue_eq_none.2 hr, List.getElem?_eq_none (Nat.lt_of_not_le hr)]

theorem exec_rd_of_value {s : State} {r : Byte} {v : Word} (h : registerValue s r = some v) :
    exec (.rd r) s = .next (respond v s) :=
  execRd_next.2 (.inl ⟨v, h, rfl⟩)

/-- A reserved number takes `ERR_REG`, which a faulted block refuses (R232, R284). -/
theorem exec_rd_reserved {r : Byte} (hr : 10 ≤ r.toNat) (s : State) : exec (.rd r) s = .next (takeFault .errReg s) :=
  execRd_next.2 (.inr ⟨registerValue_eq_none.2 (Nat.not_le_of_gt hr), rfl⟩)

/-- Settles O3: opcode 02 has class R; the registers whose value is stated for every state are all of the register list
but its last, `LNLEN`. -/
theorem rdOperation : Obligations.RdOperation := by
  have henc : EncodesByte 0x02 .rd := encodesByte_of_class rfl
  refine ⟨henc, henc.faultsWithErrOp, fun s r v hv => ?_,
    fun s => ⟨lengthWord s.ln.length, exec_rd_of_value rfl, lengthWord_toNat⟩, fun s r hr hf => ?_, fun s r hr hf => ?_⟩
  · refine exec_rd_of_value ((registerValue_eq_getElem? s r).trans ?_)
    obtain ⟨hr, -⟩ := List.getElem?_eq_some_iff.1 hv
    exact (List.getElem?_append_left (l₂ := [lengthWord s.ln.length]) hr).trans hv
  · rw [exec_rd_reserved hr, takeFault_of_unfaulted hf]
    rfl
  · rw [exec_rd_reserved hr, takeFault_of_faulted hf]
    rfl

end Sys2Proof.Machine
end

section
/-! PROOF. The pseudo-operations of the host (spec/47_host_sequences.md R240 to R245): each `SEND` is one packet through
the framer, and each `FEED` one buffer through its unit. -/

namespace Sys2Proof.Machine

/-! ### `SEND` -/

/-- One packet through the framer from `IDLE`. `TX.START` writes `TXREM`, so what it held before plays no part (R152,
R156). -/
theorem runInstrs_send (k : Magic) {p : List Byte} (hp : p.length = k.plen) {s : State} (hf : s.faulted = false)
    (hi : s.txst = .idle) :
    runInstrs (.txStart k.number :: p.map .txByte) s = .next
      { s with tx := s.tx ++ encodePacket k.number p, txcrc := crc32Mpeg2 (be32 k.number ++ p), txrem := 0,
               resp := answered 0 } := by
  have hzero := framerAppendsEncodedPacket { s with txrem := 0 } k p hf hi rfl hp
  rw [runInstrs_cons (exec_txStart_magic (s := { s with txrem := 0 }) hf hi k)] at hzero
  rw [runInstrs_cons (exec_txStart_magic hf hi k)]
  exact hzero

/-- The packet that has gone out is the wire encoding with the trailer left in `TXCRC` (R94 to R98, R150). -/
theorem send_appends_packet {s : State} (hf : s.faulted = false) (hi : s.txst = .idle) (k : Magic) {p : List Byte}
    (hp : p.length = k.plen) :
    ∃ t, runInstrs (.txStart k.number :: p.map .txByte) s = .next t ∧ t.txst = .idle ∧ t.faulted = false ∧
      t.tx = s.tx ++ encodePacket k.number p ∧
      Input.packet (packetBytes k p t.txcrc) = .packet (t.tx.drop s.tx.length) := by
  refine ⟨_, runInstrs_send k hp hf hi, hi, hf, rfl, congrArg Input.packet ?_⟩
  exact (List.drop_left (l₁ := s.tx) (l₂ := encodePacket k.number p)).symm

/-- Settles O57: each `SEND` opens a packet with its magic and sends as many payload bytes as that magic asks for. -/
theorem sendPseudoOperationsAppendPackets : Obligations.SendPseudoOperationsAppendPackets := fun _ hf hi =>
  ⟨fun _ => send_appends_packet hf hi .comd rfl, fun _ => send_appends_packet hf hi .head rfl,
    fun _ hblock => send_appends_packet hf hi .data hblock, fun _ _ _ _ => send_appends_packet hf hi .pass rfl,
    fun _ => send_appends_packet hf hi .resp rfl⟩

/-! ### `FEED` -/

theorem runInstrs_crcFeed (bytes : List Byte) {s : State} (hf : s.faulted = false) :
    ∃ t, runInstrs (crcFeed bytes) s = .next t ∧ t.faulted = false ∧ t.crc = crcBytes s.crc bytes := by
  cases bytes with
  | nil => exact ⟨s, rfl, hf, rfl⟩
  | cons b rest =>
    have hrest := runInstrs_crcByte rest (s := { s with crc := crcStep s.crc b }) hf
    exact ⟨_, (runInstrs_cons (exec_crcByte b hf) _).trans hrest, hf, rfl⟩

/-- The low byte of a zero-extended byte is that byte (R11, R245). -/
theorem byteOf_zero_setWidth (b : Byte) : byteOf (b.setWidth 32) 0 = b := by
  simp [byteOf]

theorem runResponses_cons {i : Instr} {s t : State} (h : exec i s = .next t) (rest : List Instr) :
    runResponses (i :: rest) s = (runResponses rest t).map fun p => (p.1, t.resp.toList ++ p.2) := by
  simp only [runResponses, h]

/-- `X.SYNC` sets the stream index to 0 wherever it stood, and answers with a response that is no byte of the result
(R216, R245). -/
theorem runResponses_xFeed (bytes : List Byte) {s : State} (hf : s.faulted = false) (hv : s.keyv = true) :
    ∃ t responses, runResponses (xFeed bytes) s = some (t, responses) ∧ t.faulted = false ∧
      xFeedResult responses = xorTransform bytes s.key := by
  obtain ⟨r, hbytes⟩ := runResponses_xByte bytes (s := respond 0 { s with kidx := 0 }) (i := 0) hf hv rfl
  refine ⟨_, _, (runResponses_cons (exec_xSync hf) _).trans (congrArg (Option.map _) hbytes), hf, ?_⟩
  simp [xFeedResult, Function.comp_def, byteOf_zero_setWidth, xorTransform]

/-- An encoded packet is a whole packet with its own CRC for trailer, so the verdict is `OK`; surplus bytes come after
it (R173, R175). -/
theorem ckFeed_encodePacket (k : Magic) {p : List Byte} (hp : p.length = k.plen) (surplus : List Byte) {s : State}
    (hf : s.faulted = false) :
    ∃ t, ckFeed (encodePacket k.number p ++ surplus) s = .next t ∧ t.ckres = some .ok ∧ t.ckkind = some k ∧
      t.resp = answered 1 :=
  ⟨_, ckFeed_packetBytes_append hf k hp (crc32Mpeg2 (be32 k.number ++ p)) surplus, congrArg some (if_pos rfl), rfl,
    congrArg answered (if_pos rfl)⟩

/-- Settles O58: the three feeds. -/
theorem feedPseudoOperations : Obligations.FeedPseudoOperations :=
  ⟨fun _ bytes hf => runInstrs_crcFeed bytes hf, fun _ bytes hf hv => runResponses_xFeed bytes hf hv,
    fun _ k _ surplus hf hp => ckFeed_encodePacket k hp surplus hf⟩

end Sys2Proof.Machine
end

section
/-! PROOF. The firmware chunker, host software (spec/47_host_sequences.md R246): the blocks in a row are the image and
then fill bytes. -/

namespace Sys2Proof.Machine

theorem padBlock_length {chunk : List Byte} (h : chunk.length ≤ 1024) : (padBlock chunk).length = 1024 := by
  simp only [padBlock, List.length_append, List.length_replicate]
  omega

theorem splitBlocks_length (n : Nat) (image : List Byte) : (splitBlocks n image).length = n := by
  induction n generalizing image with
  | zero => rfl
  | succ n ih => exact congrArg (· + 1) (ih (image.drop 1024))

theorem length_of_mem_splitBlocks {n : Nat} {image b : List Byte} (h : b ∈ splitBlocks n image) : b.length = 1024 := by
  induction n generalizing image with
  | zero => cases h
  | succ n ih =>
    rcases List.mem_cons.1 h with rfl | hrest
    · exact padBlock_length (List.length_take_le ..)
    · exact ih hrest

/-- A block is filled up only when no image bytes are left for the blocks after it. -/
theorem splitBlocks_flatten {n : Nat} {image : List Byte} (h : image.length ≤ 1024 * n) :
    ∃ fill, (splitBlocks n image).flatten = image ++ List.replicate fill 0xFF := by
  induction n generalizing image with
  | zero => exact ⟨0, by simp [splitBlocks, List.eq_nil_of_length_eq_zero (Nat.le_zero.1 h)]⟩
  | succ n ih =>
    obtain ⟨fill, hrest⟩ := ih (image := image.drop 1024) (by rw [List.length_drop]; omega)
    rw [splitBlocks, List.flatten_cons, hrest, padBlock]
    rcases Nat.le_total image.length 1024 with hlast | hfull
    · refine ⟨1024 - image.length + fill, ?_⟩
      rw [List.take_of_length_le hlast, List.drop_of_length_le hlast, List.nil_append, List.append_assoc,
        List.replicate_append_replicate]
    · refine ⟨fill, ?_⟩
      rw [List.length_take_of_le hfull, Nat.sub_self, List.replicate_zero, List.append_nil, ← List.append_assoc,
        List.take_append_drop]

/-- Settles O59: as many blocks as the image needs hold all of it. -/
theorem chunkerProperties : Obligations.ChunkerProperties := by
  intro image
  obtain ⟨fill, hflat⟩ := splitBlocks_flatten (n := (image.length + 1023) / 1024) (image := image) (by omega)
  refine ⟨splitBlocks_length .., fun _ => length_of_mem_splitBlocks, ?_, ?_⟩
  · rw [splitImage, hflat, List.take_left]
  · rw [splitImage, hflat, List.drop_left]
    exact fun _ => List.eq_of_mem_replicate

end Sys2Proof.Machine
end

section
/-! PROOF. Operations as the host issues them (spec/47_host_sequences.md Part B): a run that leaves the block not
faulted has no faulted response in it, so the host sees it through. -/

namespace Sys2Proof.Machine

/-- Operations of units bring no block out of the lock (R284, R287). -/
theorem runInstrs_faulted {is : List Instr} (his : ∀ i ∈ is, unitOf i ≠ .system) {s t : State}
    (hrun : runInstrs is s = .next t) (hf : s.faulted = true) : t.faulted = true := by
  induction is generalizing s with
  | nil => exact next_inj hrun ▸ hf
  | cons i rest ih =>
    obtain ⟨hi, hrest⟩ := List.forall_mem_cons.1 his
    rw [runInstrs_cons (exec_of_faulted hi hf)] at hrun
    exact ih hrest hrun hf

theorem issue_of_unfaulted {i : Instr} (hi : unitOf i ≠ .system) {s t : State} (hf : s.faulted = false)
    (hexec : exec i s = .next t) (ht : t.faulted = false) (reads : List (Option (List Byte))) :
    issue i ⟨s, reads⟩ = .ok ⟨t, reads⟩ := by
  obtain ⟨ret, v, -, hresp⟩ := completesAs_of_unfaulted hi hf hexec ht
  have ht : t.resp = some ⟨false, ret⟩ := hresp ▸ respond_resp ..
  simp only [issue, hexec, ht]

theorem issueAll_of_runInstrs {is : List Instr} (his : ∀ i ∈ is, unitOf i ≠ .system) {s t : State}
    (hf : s.faulted = false) (hrun : runInstrs is s = .next t) (ht : t.faulted = false)
    (reads : List (Option (List Byte))) : issueAll is ⟨s, reads⟩ = .ok ⟨t, reads⟩ := by
  induction is generalizing s with
  | nil => rw [← next_inj hrun, issueAll]
  | cons i rest ih =>
    obtain ⟨hi, hrest⟩ := List.forall_mem_cons.1 his
    cases hexec : exec i s with
    | next u =>
      rw [runInstrs_cons hexec] at hrun
      have hu : u.faulted = false := Bool.eq_false_iff.2 fun hu => by
        rw [runInstrs_faulted hrest hrun hu] at ht
        cases ht
      rw [issueAll, issue_of_unfaulted hi hf hexec hu]
      exact ih hrest hu hrun
    | fault => simp [runInstrs, hexec] at hrun
    | refused => simp [runInstrs, hexec] at hrun

end Sys2Proof.Machine
end

section
/-! PROOF. The retry policy, host software (spec/47_host_sequences.md R255). An attempt sends and reads one line; while
no line is affirmative, each attempt takes one from the ceiling, one from the lines, and appends the packet once more. -/

namespace Sys2Proof.Machine

/-! ### One reply -/

/-- The reply that one read amounts to: a classified line, or the missing reply of a read that timed out (R255). -/
def replyTo (priority : StatusPriority) : Option (List Byte) → Reply
  | none => .missing
  | some line =>
    match classifyStatusLine priority line with
    | .ack => .affirmative
    | .nack => .negative
    | .unmatched => .missing

theorem replyTo_eq_affirmative {priority : StatusPriority} {read : Option (List Byte)} :
    replyTo priority read = .affirmative ↔
      ∃ line, read = some line ∧ classifyStatusLine priority line = .ack := by
  cases read with
  | none => simp [replyTo]
  | some line => cases hc : classifyStatusLine priority line <;> simp [replyTo, hc]

/-- Two blocks are the same to a sender: they agree on the lock, the parameters, the framer's phase and `TX`. -/
structure SameToSender (s t : State) : Prop where
  faulted : t.faulted = s.faulted
  params : t.params = s.params
  txst : t.txst = s.txst
  tx : t.tx = s.tx

/-- `LN.LOAD` and `LN.STAT` of a line that fits classify it, and do nothing a sender sees (R191, R196, R197). -/
theorem runInstrs_lnLoad_lnStat {line : List Byte} {s : State} (hf : s.faulted = false)
    (hfits : line.length ≤ s.params.lineMax) :
    ∃ t, runInstrs (lnLoad line ++ [.lnStat]) s = .next t ∧
      t.sclass = some (classifyStatusLine s.params.statusPriority line) ∧ SameToSender s t := by
  obtain ⟨r, hload⟩ := runInstrs_lnLoad hf hfits
  rw [runInstrs_append hload, runInstrs_cons (exec_lnStat (s := lineLoaded line r s) hf rfl)]
  exact ⟨_, rfl, rfl, rfl, rfl, rfl, rfl⟩

/-- One line awaited: the reply it amounts to, and a block that is the same to a sender (R255, R256). -/
theorem awaitStatus_cons {read : Option (List Byte)} {s : State} (hf : s.faulted = false)
    (hfits : ∀ line, read = some line → line.length ≤ s.params.lineMax) (rest : List (Option (List Byte))) :
    ∃ t, awaitStatus ⟨s, read :: rest⟩ = .ok (replyTo s.params.statusPriority read, ⟨t, rest⟩) ∧
      SameToSender s t := by
  cases read with
  | none => exact ⟨s, rfl, rfl, rfl, rfl, rfl⟩
  | some line =>
    obtain ⟨t, hrun, hclass, hst⟩ := runInstrs_lnLoad_lnStat hf (hfits line rfl)
    have hunit : ∀ i ∈ lnLoad line ++ [.lnStat], unitOf i ≠ .system := by
      simp [lnLoad, or_imp, forall_and, unitOf]
    have hissue := issueAll_of_runInstrs hunit hf hrun (hst.faulted.trans hf) rest
    refine ⟨t, ?_, hst⟩
    simp only [awaitStatus, readLine, hissue, bind, Except.bind, hclass, replyTo]
    cases classifyStatusLine s.params.statusPriority line <;> rfl

/-! ### One attempt -/

/-- What the exchanges of the statement send, in a block where they can be sent: nothing, or a packet from `IDLE`, with
the bytes it appends to `TX` (R240 to R244). -/
def Sends (send : List Instr) (bytes : List Byte) (s : State) : Prop :=
  send = [] ∧ bytes = [] ∨ ∃ (k : Magic) (p : List Byte), p.length = k.plen ∧ s.txst = .idle ∧
    send = .txStart k.number :: p.map .txByte ∧ bytes = encodePacket k.number p

/-- A block that is not faulted and can send, when `sent` has gone out before. -/
structure Ready (send : List Instr) (bytes : List Byte) (params : Params) (sent : List Byte) (s : State) : Prop where
  sends : Sends send bytes s
  unfaulted : s.faulted = false
  params_eq : s.params = params
  tx_eq : s.tx = sent

section Attempt
variable {send : List Instr} {bytes sent : List Byte} {params : Params} {s : State}

theorem Ready.of_sameToSender {t : State} (h : Ready send bytes params sent s) (hst : SameToSender s t) :
    Ready send bytes params sent t where
  sends := by rw [Sends, hst.txst]; exact h.sends
  unfaulted := hst.faulted.trans h.unfaulted
  params_eq := hst.params.trans h.params_eq
  tx_eq := hst.tx.trans h.tx_eq

/-- Sending appends the bytes, and leaves a block that can send again. -/
theorem Ready.issueAll_send (h : Ready send bytes params sent s) (reads : List (Option (List Byte))) :
    ∃ t, issueAll send ⟨s, reads⟩ = .ok ⟨t, reads⟩ ∧ Ready send bytes params (sent ++ bytes) t := by
  have hf := h.unfaulted
  rcases h.sends with ⟨rfl, rfl⟩ | ⟨k, p, hp, hi, rfl, rfl⟩
  · exact ⟨s, rfl, (List.append_nil sent).symm ▸ h⟩
  · have hunit : ∀ i ∈ Instr.txStart k.number :: p.map .txByte, unitOf i ≠ .system := by simp [unitOf]
    exact ⟨_, issueAll_of_runInstrs hunit hf (runInstrs_send k hp hf hi) hf reads,
      .inr ⟨k, p, hp, hi, rfl, rfl⟩, hf, h.params_eq, congrArg (· ++ _) h.tx_eq⟩

/-- One attempt: the packet goes out, one line is read, and an affirmative reply ends the exchange while any other
leaves it one attempt less (R255). -/
theorem Ready.exchange_succ (h : Ready send bytes params sent s) {read : Option (List Byte)}
    (hfits : ∀ line, read = some line → line.length ≤ params.lineMax) (n : Nat) (last : Reply)
    (rest : List (Option (List Byte))) :
    ∃ t, Ready send bytes params (sent ++ bytes) t ∧
      (replyTo params.statusPriority read = .affirmative →
        exchange send (n + 1) last ⟨s, read :: rest⟩ = .ok ⟨t, rest⟩) ∧
      (replyTo params.statusPriority read ≠ .affirmative →
        exchange send (n + 1) last ⟨s, read :: rest⟩ =
          exchange send n (replyTo params.statusPriority read) ⟨t, rest⟩) := by
  obtain ⟨u, hsent, hu⟩ := h.issueAll_send (read :: rest)
  obtain ⟨t, hawait, hut⟩ := awaitStatus_cons hu.unfaulted (hu.params_eq ▸ hfits) rest
  rw [hu.params_eq] at hawait
  refine ⟨t, hu.of_sameToSender hut, fun hr => ?_, fun hr => ?_⟩
  · simp only [exchange, hsent, bind, Except.bind, hawait, hr]
    rfl
  · simp only [exchange, hsent, bind, Except.bind, hawait]

/-! ### Many attempts -/

/-- As many attempts as there are lines with no affirmative reply use up the lines and no more, whatever is left of the
ceiling after them. -/
theorem Ready.exchange_unanswered {reads : List (Option (List Byte))} (h : Ready send bytes params sent s)
    (hreads : ∀ read ∈ reads, (∀ line, read = some line → line.length ≤ params.lineMax) ∧
      replyTo params.statusPriority read ≠ .affirmative)
    (n : Nat) (last : Reply) (rest : List (Option (List Byte))) :
    ∃ reply t, exchange send (reads.length + n) last ⟨s, reads ++ rest⟩ = exchange send n reply ⟨t, rest⟩ ∧
      Ready send bytes params (sent ++ (List.replicate reads.length bytes).flatten) t := by
  induction reads generalizing s sent last with
  | nil => exact ⟨last, s, by simp, by simpa using h⟩
  | cons read reads ih =>
    obtain ⟨⟨hfits, hreply⟩, hreads⟩ := List.forall_mem_cons.1 hreads
    obtain ⟨u, hu, -, hgo⟩ := h.exchange_succ hfits (reads.length + n) last (reads ++ rest)
    obtain ⟨reply, t, hrest, ht⟩ := ih hu hreads (replyTo params.statusPriority read)
    refine ⟨reply, t, ?_, ?_⟩
    · rw [List.length_cons, Nat.add_right_comm, List.cons_append, hgo hreply, hrest]
    · rwa [List.length_cons, List.replicate_succ, List.flatten_cons, ← List.append_assoc]

end Attempt

/-- A spent ceiling is reported as one of two kinds (R290). -/
theorem spent_cases (r : Reply) : spent r = .framingTimeout ∨ spent r = .protocolNack := by cases r <;> simp [spent]

theorem replyTo_ackw (priority : StatusPriority) : replyTo priority (some ackwPattern) = .affirmative := by
  cases priority <;> decide

/-- Settles O60: the lines before the `ACKW` use up a ceiling of their number, and one attempt more reads it. -/
theorem retryStopsAtTheCeiling : Obligations.RetryStopsAtTheCeiling := by
  intro send bytes reads block hsend hf hlegal hreads
  have hready : Ready send bytes block.params block.tx block := ⟨hsend, hf, rfl, rfl⟩
  have hunanswered : ∀ read ∈ reads, (∀ line, read = some line → line.length ≤ block.params.lineMax) ∧
      replyTo block.params.statusPriority read ≠ .affirmative := by
    refine fun read hmem => ⟨fun line hline => (hreads line (hline ▸ hmem)).1, fun hreply => ?_⟩
    obtain ⟨line, hline, hack⟩ := replyTo_eq_affirmative.1 hreply
    exact (hreads line (hline ▸ hmem)).2 hack
  constructor
  · obtain ⟨reply, t, hspent, -⟩ := hready.exchange_unanswered hunanswered 0 .missing [some ackwPattern]
    exact ⟨spent reply, spent_cases reply, hspent⟩
  · obtain ⟨reply, t, hleft, ht⟩ := hready.exchange_unanswered hunanswered 1 .missing [some ackwPattern]
    have hfits : ∀ line, some ackwPattern = some line → line.length ≤ block.params.lineMax := by
      rintro _ ⟨⟩
      exact le_trans (by decide) hlegal
    obtain ⟨u, hu, hok, -⟩ := ht.exchange_succ hfits 0 reply []
    refine ⟨⟨u, []⟩, hleft.trans (hok (replyTo_ackw _)), rfl, ?_⟩
    rw [hu.tx_eq, List.replicate_succ', List.flatten_concat, List.append_assoc]

end Sys2Proof.Machine
end

section
/-! PROOF. Faults and the lock (spec/60_exceptions.md R282 to R284): the table of R283 as a function of the instruction and
the state, and what an instruction leaves in each of its two answers, completed or faulted. -/

namespace Sys2Proof.Machine

/-- The table of R283: the fault an instruction raises in a block that is not faulted, if any. -/
def faultOf (i : Instr) (s : State) : Option FaultCode :=
  match i with
  | .txStart m => if s.txst = .payload then some .errSeq else if Magic.ofNumber m = none then some .errMagic else none
  | .txByte _ => if s.txst = .idle then some .errSeq else none
  | .ckByte _ => if s.ckst = .idle then some .errSeq else none
  | .lnByte _ => if s.ln.length = s.params.lineMax then some .errOvf else none
  | .xByte _ | .xGrp _ => if s.keyv = false then some .errKey else none
  | .rd r => if 10 ≤ r.toNat then some .errReg else none
  | _ => none

/-- From `s` to `t` no fault was taken: the block is not faulted, and no code stands in `ERR` that did not before. -/
structure NoFault (s t : State) : Prop where
  unfaulted : t.faulted = false
  noCode : s.err = none → t.err = none

/-- An update that leaves `ERR` and `FAULTED` alone takes no fault. -/
theorem NoFault.of_eq {s t : State} (hf : s.faulted = false) (hfaulted : t.faulted = s.faulted) (herr : t.err = s.err) :
    NoFault s t := ⟨hfaulted.trans hf, herr.trans⟩

/-- What the checker does to itself is no fault (R173, R175). -/
theorem NoFault.of_outsideChecker {s t : State} (hf : s.faulted = false) (h : SameOutsideChecker s t) : NoFault s t :=
  .of_eq hf (congrArg State.faulted h.eq :) (congrArg State.err h.eq :)

/-- The two answers of an instruction: it takes the fault the table names, or there is none to take. -/
def FollowsTable (i : Instr) (s t : State) : Prop :=
  (faultOf i s = none ∧ NoFault s t) ∨ ∃ e, faultOf i s = some e ∧ t = takeFault e s

/-- Every instruction that answers in a block that is not faulted follows the table of R283. -/
theorem exec_followsTable {i : Instr} {s t : State} (hf : s.faulted = false) (h : exec i s = .next t) :
    FollowsTable i s t := by
  cases i with
  | reset =>
    cases execReset_next.1 h
    exact .inl ⟨rfl, rfl, fun _ => rfl⟩
  | rd r =>
    rcases execRd_next.1 h with ⟨v, hv, rfl⟩ | ⟨hv, rfl⟩
    · have hr : r.toNat ≤ 9 := registerValue_isSome.1 (Option.isSome_of_eq_some hv)
      exact .inl ⟨if_neg (by omega), .of_eq hf rfl rfl⟩
    · have hr : ¬ r.toNat ≤ 9 := registerValue_eq_none.1 hv
      exact .inr ⟨.errReg, if_pos (by omega), rfl⟩
  | txStart m =>
    rcases of_unlocked hf (execTxStart_next.1 h) with ⟨hp, rfl⟩ | ⟨hi, hm, rfl⟩ | ⟨k, hi, rfl, rfl⟩
    · exact .inr ⟨.errSeq, by simp [faultOf, hp], rfl⟩
    · exact .inr ⟨.errMagic, by simp [faultOf, hi, hm], rfl⟩
    · exact .inl ⟨by simp [faultOf, hi], .of_eq hf rfl rfl⟩
  | txByte b =>
    rcases of_unlocked hf (execTxByte_next.1 h) with ⟨hi, rfl⟩ | ⟨hp, -, -, rfl⟩ | ⟨hp, -, -, rfl⟩
    · exact .inr ⟨.errSeq, if_pos hi, rfl⟩
    · exact .inl ⟨by simp [faultOf, hp], .of_eq hf rfl rfl⟩
    · exact .inl ⟨by simp [faultOf, hp], .of_eq hf rfl rfl⟩
  | ckByte b =>
    rcases of_unlocked hf (execCkByte_next.1 h) with ⟨hi, rfl⟩ | ⟨ho, -, u, hu, rfl⟩
    · exact .inr ⟨.errSeq, if_pos hi, rfl⟩
    · exact .inl ⟨if_neg ho, .of_outsideChecker hf (sameOutsideChecker_respond _ (ckByteState_outside hu))⟩
  | lnByte b =>
    rcases of_unlocked hf (execLnByte_next.1 h) with ⟨hfull, rfl⟩ | ⟨hroom, rfl⟩
    · exact .inr ⟨.errOvf, if_pos hfull, rfl⟩
    · exact .inl ⟨if_neg hroom, .of_eq hf rfl rfl⟩
  | xByte b =>
    rcases of_unlocked hf (execXByte_next.1 h) with ⟨hv, rfl⟩ | ⟨hv, rfl⟩
    · exact .inr ⟨.errKey, if_pos hv, rfl⟩
    · exact .inl ⟨by simp [faultOf, hv], .of_eq hf rfl rfl⟩
  | xGrp w =>
    rcases of_unlocked hf (execXGrp_next.1 h) with ⟨hv, rfl⟩ | ⟨hv, rfl⟩
    · exact .inr ⟨.errKey, if_pos hv, rfl⟩
    · exact .inl ⟨by simp [faultOf, hv], .of_eq hf rfl rfl⟩
  | crcInit | crcByte | crcCmp | ckStart | lnClear | lnResp | lnStat | keyLoad | keyClr | xSync =>
    cases complete_next.1 (of_unlocked hf (unlessLocked_next.1 h))
    exact .inl ⟨rfl, .of_eq hf rfl rfl⟩
  | pktComd | pktHead | pktData | pktPass | pktResp => exact .inl ⟨rfl, .of_outsideChecker hf (ckFeed_outside h)⟩

/-- In a block with no fault recorded, `ERR` holds afterwards what the table names. -/
theorem exec_err_eq_faultOf {i : Instr} {s t : State} (hf : s.faulted = false) (hnone : s.err = none)
    (h : exec i s = .next t) : t.err = faultOf i s := by
  rcases exec_followsTable hf h with ⟨hcause, hno⟩ | ⟨e, hcause, rfl⟩
  · rw [hcause, hno.noCode hnone]
  · rw [hcause, takeFault_of_unfaulted hf]

/-- A command word that names no instruction takes `ERR_OP` (R103, R283), or is refused by the lock (R284). -/
theorem runInput_command_of_error {cmd : CommandWord} {e : DecodeError} (h : decodeCommand cmd = .error e) (s : State) :
    runInput (.command cmd) s = .next (takeFault .errOp s) :=
  runInput_of_error (x := .command cmd) h s

/-- Settles O41: `RESET` and `RD` do not stand under the lock, every operation of a unit does, and a faulted block takes
no second fault. -/
theorem lockRefusesEverythingElse : Obligations.LockRefusesEverythingElse := by
  intro s hf
  refine ⟨⟨_, execReset_next.2 rfl, atReset_resetWith _ _ _ _, rfl⟩, fun r hr => ?_, fun i hi => ?_, fun cmd e he => ?_⟩
  · obtain ⟨v, hv⟩ := Option.isSome_iff_exists.1 (registerValue_isSome (s := s).2 hr)
    exact ⟨v, hv, exec_rd_of_value hv⟩
  · cases i with
    | reset => exact absurd (.inl rfl) hi
    | rd r =>
      have hr : 10 ≤ r.toNat := Nat.lt_of_not_le fun hle => hi (.inr ⟨r, rfl, hle⟩)
      rw [exec_rd_reserved hr, takeFault_of_faulted hf]
      rfl
    | _ => exact exec_of_faulted (by simp [unitOf]) hf
  · rw [runInput_command_of_error he, takeFault_of_faulted hf]
    rfl

/-- Settles O42: an input that leaves the block faulted took a fault, since completing and feeding the checker take
none. -/
theorem faultWritesNothingElse : Obligations.FaultWritesNothingElse := by
  intro x s t hf hrun ht
  suffices h : ∃ e, t = takeFault e s by simpa only [takeFault_of_unfaulted hf] using h
  rcases runInput_cases hrun with ⟨i, -, hi⟩ | ⟨cmd, e, -, -, rfl⟩ | ⟨bytes, e, -, -, hfeed⟩
  · rcases exec_followsTable hf hi with ⟨-, hno⟩ | ⟨e, -, rfl⟩
    · exact absurd ht (by simp [hno.unfaulted])
    · exact ⟨e, rfl⟩
  · exact ⟨.errOp, rfl⟩
  · exact absurd ht (by simp [(NoFault.of_outsideChecker hf (ckFeed_outside hfeed)).unfaulted])

/-- The table of R283 read the other way: the instructions and states in which each code is raised. `ERR_OP` is the
decoder's alone. -/
def CausesOf (i : Instr) (s : State) : FaultCode → Prop
  | .errOp => False
  | .errSeq => (∃ m, i = .txStart m ∧ s.txst = .payload) ∨ (∃ b, i = .txByte b ∧ s.txst = .idle) ∨
      ∃ b, i = .ckByte b ∧ s.ckst = .idle
  | .errMagic => ∃ m, i = .txStart m ∧ s.txst = .idle ∧ ∀ k : Magic, m ≠ k.number
  | .errKey => s.keyv = false ∧ ((∃ b, i = .xByte b) ∨ ∃ w, i = .xGrp w)
  | .errOvf => ∃ b, i = .lnByte b ∧ s.ln.length = s.params.lineMax
  | .errReg => ∃ r, i = .rd r ∧ 10 ≤ r.toNat

theorem faultOf_eq_some {i : Instr} {s : State} {e : FaultCode} : faultOf i s = some e ↔ CausesOf i s e := by
  cases i with
  | txStart m =>
    cases hst : s.txst with
    | payload => cases e <;> simp [faultOf, CausesOf, hst]
    | idle => cases e <;> simp [faultOf, CausesOf, hst, Magic.ofNumber_eq_none]
  | _ => cases e <;> simp [faultOf, CausesOf]

/-- Settles O43: `ERR` holds what the table names, and the two readings of the table agree. -/
theorem faultCausesComplete : Obligations.FaultCausesComplete := by
  refine ⟨rfl, fun i s t hf hnone h => ?_, fun cmd e s hf he => ?_⟩
  · rw [exec_err_eq_faultOf hf hnone h]
    exact ⟨faultOf_eq_some, faultOf_eq_some, faultOf_eq_some, faultOf_eq_some, faultOf_eq_some, faultOf_eq_some.1⟩
  · rw [runInput_command_of_error he, takeFault_of_unfaulted hf]
    rfl

end Sys2Proof.Machine
end
